-- ==== Sys2Proof/Word.lean ====
section
/-! DEFINITION. The word type of the transcoder: every register, buffer element and index is a 32-bit
unsigned value (00_scope.md R7, 20_memory.md R40). -/

namespace Sys2Proof

/-- A 32-bit unsigned word: XLEN of 00_scope.md R5. -/
abbrev Word := BitVec 32

end Sys2Proof
end

