-- ==== Sys2Proof/Syntax.lean ====
section
/-! DEFINITION. The commands of the block (30_encoding.md R62), the operations that reach it from outside
(20_memory.md R41, 70_reset_and_hazards.md R180) and the host-script statements (30_encoding.md R66, R67). -/

namespace Sys2Proof

/-- The seven commands of 30_encoding.md R62. A command word holds no operand fields (R60): operands come from
ARG0, ARG1 and IBUF. -/
inductive Instr where
  /-- Construct the re-packer, 40_config.md R80. -/
  | cfg
  /-- Replace the re-packer by its inverse, 40_config.md R82. -/
  | inv
  /-- Convert the input buffer, 41_transcode.md R96. -/
  | conv
  /-- Map one sextet to its character, 42_alphabet.md R115. -/
  | mape
  /-- Map one character to its sextet, 42_alphabet.md R117. -/
  | mapd
  /-- Encode bytes as base-64 text, 43_codec.md R131. -/
  | b64e
  /-- Decode base-64 text into bytes, 43_codec.md R134. -/
  | b64d
  deriving DecidableEq, Repr

/-- The three address spaces of 20_memory.md R40. -/
inductive Space where
  | reg
  | ibuf
  | obuf
  deriving DecidableEq, Repr

/-- The host-visible registers of 10_state.md R12, by name. -/
inductive RegName where
  | cmd
  | arg0
  | arg1
  | status
  | widths
  | result
  | outlen
  | pad
  | errinfo
  | idepth
  | odepth
  deriving DecidableEq, Repr

/-- The access sizes the interface does not have (20_memory.md R50). -/
inductive SubwordSize where
  | byte
  | half
  deriving DecidableEq, Repr

/-- What can reach the block from outside: the host's operations of 20_memory.md R41, an access narrower than an
element (R50: "A model refuses a sub-word access"), and the platform's reset (70_reset_and_hazards.md R180).
An index is a 32-bit word: REG has indices 0 .. 2^32 − 1 and a buffer at most 2^32 − 1 elements (R40, R6). -/
inductive Input where
  /-- `HostWrite(space, i, v)`. -/
  | write (space : Space) (i v : Word)
  /-- `HostRead(space, i)`. -/
  | read (space : Space) (i : Word)
  /-- A byte or half-word write, which the interface does not have. -/
  | subwordWrite (size : SubwordSize) (space : Space) (i v : Word)
  /-- A byte or half-word read, which the interface does not have. -/
  | subwordRead (size : SubwordSize) (space : Space) (i : Word)
  /-- The platform asserts reset between two host operations. -/
  | reset
  deriving DecidableEq, Repr

/-- One line of a host script: the base statements of 30_encoding.md R66, then the pseudo-instructions of R67. -/
inductive ScriptLine where
  /-- `WR <reg>, <v>`. -/
  | wr (r : RegName) (v : Word)
  /-- `WRI <i>, <v>`. -/
  | wri (i v : Word)
  /-- `RD <reg>`. -/
  | rd (r : RegName)
  /-- `RDI <i>`. -/
  | rdi (i : Word)
  /-- `RDO <i>`. -/
  | rdo (i : Word)
  /-- `CMD <w>`. -/
  | cmd (w : Word)
  /-- `CFG`, `INV`, … with no operands. -/
  | op (c : Instr)
  /-- `CFG <iw>, <ow>`. -/
  | cfgWith (iw ow : Word)
  /-- `CONV <n>`. -/
  | convWith (n : Word)
  /-- `MAPE <v>`. -/
  | mapeWith (v : Word)
  /-- `MAPD <c>`. -/
  | mapdWith (c : Word)
  /-- `B64E <n>`. -/
  | b64eWith (n : Word)
  /-- `B64D <n>`. -/
  | b64dWith (n : Word)
  /-- `WRIS <i>, [v0, v1, …]`. -/
  | wris (i : Word) (vs : List Word)
  /-- `WRIS <i>, "<text>"`. -/
  | wrisText (i : Word) (text : List Char)
  /-- `CHECK <reg>, <v>`. -/
  | check (r : RegName) (v : Word)
  /-- `CHECKO <i>, <v>`. -/
  | checko (i v : Word)
  deriving DecidableEq, Repr

end Sys2Proof
end

