-- ==== Sys2Proof/WellFormed.lean ====
section
/-! DEFINITION. Which terms of the syntax the spec gives a place: commands (30_encoding.md R60), host
operations (20_memory.md R50) and host-script lines (30_encoding.md R67). -/

namespace Sys2Proof

/-- Every command is well formed: the command word has no operand fields that could be out of range
(30_encoding.md R60, R63; operands are checked by each command's own rule). -/
def Instr.wf : Instr → Bool
  | .cfg => true
  | .inv => true
  | .conv => true
  | .mape => true
  | .mapd => true
  | .b64e => true
  | .b64d => true

/-- Every access moves one whole 32-bit element (20_memory.md R50): a narrower one is not part of the interface. -/
def Input.wf : Input → Bool
  | .write _ _ _ => true
  | .read _ _ => true
  | .subwordWrite _ _ _ _ => false
  | .subwordRead _ _ _ => false
  | .reset => true

/-- A `WRIS` run stays within the 32-bit index range, so that `<i+k>` of 30_encoding.md R67 is an index. -/
def runFits (i : Word) (count : Nat) : Bool := decide (i.toNat + count ≤ 2 ^ 32)

/-- "A character in a `"<text>"` literal must be ASCII" (30_encoding.md R67). -/
def asciiChar (c : Char) : Bool := decide (c.toNat < 128)

/-- Well-formed host-script lines (30_encoding.md R66, R67). -/
def ScriptLine.wf : ScriptLine → Bool
  | .wr _ _ => true
  | .wri _ _ => true
  | .rd _ => true
  | .rdi _ => true
  | .rdo _ => true
  | .cmd _ => true
  | .op c => c.wf
  | .cfgWith _ _ => true
  | .convWith _ => true
  | .mapeWith _ => true
  | .mapdWith _ => true
  | .b64eWith _ => true
  | .b64dWith _ => true
  | .wris i vs => runFits i vs.length
  | .wrisText i text => runFits i text.length && text.all asciiChar
  | .check _ _ => true
  | .checko _ _ => true

end Sys2Proof
end

