-- ==== Sys2Proof/Decode.lean ====
section
/-! DEFINITION. Decoding a command word (30_encoding.md R60 to R65), total on all 2^32 words and rejecting by
name, and the encoder written from the opcode map of R62. -/

namespace Sys2Proof

/-- Why a word is no command word; either way the block raises ILLEGAL_COMMAND (30_encoding.md R61, R64). -/
inductive DecodeError where
  /-- RSV, bits [31:4], is not 0. -/
  | reservedBits (w : Word)
  /-- RSV is 0 and OP is 0x0 or 0x8 to 0xF. -/
  | reservedOpcode (w : Word)
  deriving DecidableEq, Repr

/-- The field OP, bits [3:0] (30_encoding.md R60). -/
def fieldOp (w : Word) : BitVec 4 := w.extractLsb' 0 4

/-- The field RSV, bits [31:4] (30_encoding.md R60). -/
def fieldRsv (w : Word) : BitVec 28 := w.extractLsb' 4 28

/-- The decoder of 30_encoding.md R61. -/
def decode (w : Word) : Except DecodeError Instr :=
  if fieldRsv w ≠ 0#28 then .error (.reservedBits w)
  else
    match (fieldOp w).toNat with
    | 0x1 => .ok .cfg
    | 0x2 => .ok .inv
    | 0x3 => .ok .conv
    | 0x4 => .ok .mape
    | 0x5 => .ok .mapd
    | 0x6 => .ok .b64e
    | 0x7 => .ok .b64d
    | _ => .error (.reservedOpcode w)

/-- The OP column of 30_encoding.md R62. -/
def opcode : Instr → BitVec 4
  | .cfg => 0x1#4
  | .inv => 0x2#4
  | .conv => 0x3#4
  | .mape => 0x4#4
  | .mapd => 0x5#4
  | .b64e => 0x6#4
  | .b64d => 0x7#4

/-- The command word of a command: RSV = 0 above OP (30_encoding.md R60). -/
def encode (i : Instr) : Word := 0#28 ++ opcode i

/-- The 32-bit command word of an opcode-table row: bit 0 is the word's least significant bit, and the bits above
`nbits` are 0. A command is exactly one 32-bit word (30_encoding.md R65), so a longer value is none. -/
def tableWord (nbits w : Nat) : Option Word :=
  if w % 2 ^ nbits < 2 ^ 32 then some (BitVec.ofNat 32 (w % 2 ^ nbits)) else none

/-- What the decoder reads from an instruction numbered as spec/opcode_table.json numbers it. -/
def decodeTableWord (nbits w : Nat) : Option Instr :=
  match tableWord nbits w with
  | none => none
  | some cw =>
    match decode cw with
    | .ok i => some i
    | .error _ => none

end Sys2Proof
end

