-- ==== Sys2Proof/Config.lean ====
section
/-! DEFINITION. What one block of the family fixes (00_scope.md R1, R6) and the one free value the
spec leaves open (70_reset_and_hazards.md R181). -/

namespace Sys2Proof.Config

/-- The identity string of 00_scope.md R1 (D1). No register holds it and nothing reads it. -/
def identity : String := "B64XC-v7"

/-- IBUF_DEPTH of the block that `State.reset` is. 00_scope.md R6 leaves it open in [1, 2^32 − 1]; every
state carries its own depth, so only statements about `State.reset` itself depend on this number.
DESIGN CHOICE (assumption 3), unsafe for a statement that rests on it. -/
def ibufDepth : Word := 64#32

/-- OBUF_DEPTH of the block that `State.reset` is; as `ibufDepth`. DESIGN CHOICE (assumption 3), unsafe for
a statement that rests on it. -/
def obufDepth : Word := 64#32

/-- The value the hardware returns for an unwritten element when the host reads it: a draw
(93_implementation_defined.md section 2). No value of it can be proved; it is applied to the number of the
draw, so that two reads need not agree. DESIGN CHOICE (assumption 5), safe. -/
opaque freeWord : Nat → Word

end Sys2Proof.Config
end

