-- ==== Sys2Proof/Machine/State.lean ====
section
/-! DEFINITION. The state of the block (10_state.md R10), the outcomes that end a run, and the state after
power-on reset (10_state.md R32). -/

namespace Sys2Proof.Machine

/-- A buffer's storage: pairs of an element index and its 32-bit element, indices strictly rising (`Memory.Wf`).
An unlisted index holds no known value: in IBUF it is an unwritten element (70_reset_and_hazards.md R181), in OBUF
storage no commit has written. The element is the smallest unit the spec addresses (20_memory.md R40, R50;
assumption 9). -/
abbrev Memory := List (Nat × Word)

/-- The error codes of STATUS.ERR (60_exceptions.md R150); codes 7 to 15 are never produced. -/
inductive ErrorCode where
  | ok
  | configurationError
  | outOfRange
  | invalidCharacter
  | notConfigured
  | lengthError
  | illegalCommand
  deriving DecidableEq, Repr

/-- What the interface has shown: the model's own history. Values read by the host (20_memory.md R43), error
commits (92_eei_decisions.md D35: a model keeps them, since ERR reports the last command only) and resets. -/
inductive Event where
  /-- A host read of element or register `i` returned `v`. -/
  | read (space : Space) (i v : Word)
  /-- An error commit of code `e` with information `info` (60_exceptions.md R152). -/
  | error (e : ErrorCode) (info : Word)
  /-- A power-on reset (70_reset_and_hazards.md R180). -/
  | reset
  deriving DecidableEq, Repr

/-- Why the model has no successor state. -/
inductive Fault where
  /-- Raised by CONV, B64E and B64D when they read an IBUF element that is unwritten; `k` is the least such index
  (70_reset_and_hazards.md R181, 93_implementation_defined.md section 2). Safe: the hardware goes on with an
  unspecified value, and no claim that depends on it can be proved. -/
  | unwrittenInput (k : Nat)
  deriving DecidableEq, Repr

/-- Why the model gives an operation no meaning. -/
inductive Refusal where
  /-- An instruction of the opcode table that has no meaning yet; raised by no arm of this model. Safe. -/
  | notModelled (mnemonic : String)
  /-- A byte or half-word access, raised by a step that finds one in the input queue: "A model refuses a sub-word
  access, which errs toward unprovable" (20_memory.md R50). Safe. -/
  | subwordAccess
  deriving DecidableEq, Repr

/-- The state of the block (10_state.md R10), and the model's own fields `inputs`, `events` and `draws`. -/
structure State where
  /-- CFGV: a re-packer is constructed (10_state.md R23). -/
  cfgv : Bool
  /-- IN_W, the configured input width (R23). -/
  inW : BitVec 5
  /-- OUT_W, the configured output width (R23). -/
  outW : BitVec 5
  /-- IDX, the re-packer's bit index between commands (R20). -/
  idx : BitVec 5
  /-- ACC, the re-packer's accumulator (R21). -/
  acc : BitVec 31
  /-- ARG0 (R14). -/
  arg0 : Word
  /-- ARG1 (R14). -/
  arg1 : Word
  /-- STATUS.ERR (R15). -/
  err : ErrorCode
  /-- RESULT (R17). -/
  result : Word
  /-- OUTLEN (R18). -/
  outlen : Word
  /-- PAD (R18). -/
  pad : Word
  /-- ERRINFO (R19). -/
  errinfo : Word
  /-- IDEPTH, the parameter IBUF_DEPTH as the register shows it (R19). -/
  idepth : Word
  /-- ODEPTH, the parameter OBUF_DEPTH as the register shows it (R19). -/
  odepth : Word
  /-- IBUF (R27). -/
  ibuf : Memory
  /-- OBUF (R28). -/
  obuf : Memory
  /-- The operations from outside that are still to come, oldest first. Model's own (assumption 1). -/
  inputs : List Input
  /-- The history of the interface, newest first. Model's own (assumption 13). -/
  events : List Event
  /-- How many unspecified values have been drawn. Model's own (assumption 5). -/
  draws : Nat
  deriving DecidableEq, Repr

/-- What one step answers. -/
abbrev Result := Host.Outcome State Fault Refusal

/-- The table of 10_state.md R32, for a block of the given depths. `inputs`, `events` and `draws` are the model's own
and start empty (assumptions 1, 5 and 13). -/
def State.resetWith (idepth odepth : Word) : State where
  cfgv := false
  inW := 0#5
  outW := 0#5
  idx := 0#5
  acc := 0#31
  arg0 := 0#32
  arg1 := 0#32
  err := .ok
  result := 0#32
  outlen := 0#32
  pad := 0#32
  errinfo := 0#32
  idepth := idepth
  odepth := odepth
  ibuf := []
  obuf := []
  inputs := []
  events := []
  draws := 0

/-- The machine right after power-on reset (70_reset_and_hazards.md R180), for the depths of Config. -/
def State.reset : State := State.resetWith Config.ibufDepth Config.obufDepth

end Sys2Proof.Machine
end

