-- ==== Sys2Proof/Machine/Alphabet.lean ====
section
/-! DEFINITION. The alphabet ROM (42_alphabet.md R110) and the two maps over it (R112, R114). The code points are ASCII,
as the spec supplies them from general knowledge (93_implementation_defined.md section 5; assumption 24). -/

namespace Sys2Proof.Machine

/-- An alphabet block: a starting code point and a span (42_alphabet.md R110). -/
structure Block where
  start : Nat
  span : Nat
  deriving DecidableEq, Repr

/-- The five blocks, in ROM order (42_alphabet.md R110): A–Z, a–z, 0–9, `+`, `/`. -/
def alphabetRom : List Block := [⟨0x41, 26⟩, ⟨0x61, 26⟩, ⟨0x30, 10⟩, ⟨0x2B, 1⟩, ⟨0x2F, 1⟩]

/-- The padding character `=` (10_state.md R29, 00_scope.md R5). -/
def padChar : Word := 0x3D#32

/-- The walk of 42_alphabet.md R112: subtract spans until the rest falls in the current block. -/
def walkForward : List Block → Nat → Option Nat
  | [], _ => none
  | b :: bs, r => if r < b.span then some (b.start + r) else walkForward bs (r - b.span)

/-- The search of 42_alphabet.md R114, with `base` the sum of the spans of the blocks before. -/
def walkReverse : List Block → Nat → Nat → Option Nat
  | [], _, _ => none
  | b :: bs, base, c =>
    if b.start ≤ c ∧ c ≤ b.start + b.span - 1 then some (base + (c - b.start))
    else walkReverse bs (base + b.span) c

/-- MapE (42_alphabet.md R112): the code point of a sextet; none above 63. Nothing is ever substituted (R116). -/
def mapE (v : Word) : Option Word :=
  match walkForward alphabetRom v.toNat with
  | some c => some (BitVec.ofNat 32 c)
  | none => none

/-- MapD (42_alphabet.md R114): the sextet of a code point; none for a code point in no block. -/
def mapD (c : Word) : Option Word :=
  match walkReverse alphabetRom 0 c.toNat with
  | some v => some (BitVec.ofNat 32 v)
  | none => none

end Sys2Proof.Machine
end

