-- ==== Sys2Proof/Machine/Flags.lean ====
section
/-! DEFINITION. STATUS and WIDTHS, computed from the cells they show (10_state.md R15, R16), the numeric error codes
(60_exceptions.md R150), and the reads of the register file (10_state.md R12 to R19). -/

namespace Sys2Proof.Machine

/-- The code held in STATUS[11:8] (60_exceptions.md R150). -/
def ErrorCode.code : ErrorCode → BitVec 4
  | .ok => 0#4
  | .configurationError => 1#4
  | .outOfRange => 2#4
  | .invalidCharacter => 3#4
  | .notConfigured => 4#4
  | .lengthError => 5#4
  | .illegalCommand => 6#4

/-- STATUS (10_state.md R15): ERR in [11:8], CFGV in [0], all other bits hardwired 0. -/
def statusWord (s : State) : Word := 0#20 ++ s.err.code ++ 0#7 ++ BitVec.ofBool s.cfgv

/-- WIDTHS (10_state.md R16): IN_W in [7:0], OUT_W in [15:8], 0 above. -/
def widthsWord (s : State) : Word := 0#16 ++ (s.outW.setWidth 8 ++ s.inW.setWidth 8)

/-- The index column of 10_state.md R12. -/
def regIndex : RegName → Word
  | .cmd => 0#32
  | .arg0 => 1#32
  | .arg1 => 2#32
  | .status => 3#32
  | .widths => 4#32
  | .result => 5#32
  | .outlen => 6#32
  | .pad => 7#32
  | .errinfo => 8#32
  | .idepth => 9#32
  | .odepth => 10#32

/-- The register at an index of REG; none for the reserved indices 11 and above (10_state.md R12, R31). -/
def regAt (i : Word) : Option RegName :=
  match i.toNat with
  | 0 => some .cmd
  | 1 => some .arg0
  | 2 => some .arg1
  | 3 => some .status
  | 4 => some .widths
  | 5 => some .result
  | 6 => some .outlen
  | 7 => some .pad
  | 8 => some .errinfo
  | 9 => some .idepth
  | 10 => some .odepth
  | _ => none

/-- What the host reads from a register (10_state.md R12 to R19). CMD keeps no value and reads 0 (R13). -/
def readReg (r : RegName) (s : State) : Word :=
  match r with
  | .cmd => 0#32
  | .arg0 => s.arg0
  | .arg1 => s.arg1
  | .status => statusWord s
  | .widths => widthsWord s
  | .result => s.result
  | .outlen => s.outlen
  | .pad => s.pad
  | .errinfo => s.errinfo
  | .idepth => s.idepth
  | .odepth => s.odepth

end Sys2Proof.Machine
end

