-- ==== Sys2Proof/Machine/Ops.lean ====
section
/-! DEFINITION. The operations every command shares: the buffers' elements (20_memory.md R42 to R53), the named updates
of the state, raising an error with its error commit, and the success commit (60_exceptions.md R152, R153). The block has
no exception entry that saves a program counter and no return from one (R156, R157): the error commit is all there is. -/

namespace Sys2Proof.Machine

/-! ## Elements of a buffer -/

/-- The canonical form: element indices strictly rising. An unlisted element holds no value, so no listed one equals it. -/
abbrev Memory.Wf (m : Memory) : Prop := m.Pairwise fun a b => a.1 < b.1

/-- The element at index `k`, none where nothing is listed. -/
def Memory.get : Memory → Nat → Option Word
  | [], _ => none
  | (j, x) :: m, k => if j = k then some x else Memory.get m k

/-- Element `k` becomes `v`; the list stays in its canonical form. -/
def Memory.set : Memory → Nat → Word → Memory
  | [], k, v => [(k, v)]
  | (j, x) :: m, k, v =>
    if k < j then (k, v) :: (j, x) :: m
    else if k = j then (k, v) :: m
    else (j, x) :: Memory.set m k v

/-- Elements `k`, `k + 1`, … become the values of a sequence, in index order (20_memory.md R45, R53). -/
def Memory.setAll : Memory → Nat → List Word → Memory
  | m, _, [] => m
  | m, k, v :: vs => Memory.setAll (Memory.set m k v) (k + 1) vs

/-! ## Named updates of the state -/

/-- The oldest operation has been taken from the queue. -/
def State.withInputs (s : State) (rest : List Input) : State := { s with inputs := rest }

/-- One more entry in the history of the interface. -/
def State.logEvent (s : State) (e : Event) : State := { s with events := e :: s.events }

/-- ARG0 <- v (10_state.md R14). -/
def State.setArg0 (s : State) (v : Word) : State := { s with arg0 := v }

/-- ARG1 <- v (10_state.md R14). -/
def State.setArg1 (s : State) (v : Word) : State := { s with arg1 := v }

/-- IBUF[k] <- v, and element k becomes written (20_memory.md R42). -/
def State.setIbuf (s : State) (k : Nat) (v : Word) : State := { s with ibuf := s.ibuf.set k v }

/-- CFGV <- 1 with a width pair, and the re-packer in reset form for the output width: IDX <- OUT_W − 1, ACC <- 0
(10_state.md R22, 40_config.md R80, R82). -/
def State.setConfig (s : State) (iw ow : BitVec 5) : State :=
  { s with cfgv := true, inW := iw, outW := ow, idx := ow - 1#5, acc := 0#31 }

/-- "no partial object is usable": CFGV, IN_W, OUT_W, IDX and ACC <- 0 (60_exceptions.md R152). -/
def State.dropConfig (s : State) : State :=
  { s with cfgv := false, inW := 0#5, outW := 0#5, idx := 0#5, acc := 0#31 }

/-- IDX and ACC <- the given cells. -/
def State.setCells (s : State) (idx : BitVec 5) (acc : BitVec 31) : State := { s with idx := idx, acc := acc }

/-- RESULT <- v (10_state.md R17). -/
def State.setResult (s : State) (v : Word) : State := { s with result := v }

/-- OBUF[0 .. len − 1] <- out, OUTLEN <- length, PAD <- pad (20_memory.md R53, 10_state.md R18). -/
def State.setOutput (s : State) (out : List Word) (length pad : Nat) : State :=
  { s with obuf := s.obuf.setAll 0 out, outlen := BitVec.ofNat 32 length, pad := BitVec.ofNat 32 pad }

/-- STATUS.ERR <- e, ERRINFO <- info. -/
def State.setError (s : State) (e : ErrorCode) (info : Word) : State := { s with err := e, errinfo := info }

/-- "no partial output returned": RESULT, OUTLEN and PAD <- 0 (60_exceptions.md R152). -/
def State.clearResults (s : State) : State := { s with result := 0#32, outlen := 0#32, pad := 0#32 }

/-- The draw counter takes a new value. -/
def State.setDraws (s : State) (n : Nat) : State := { s with draws := n }

/-! ## Commit -/

/-- The error commit of 60_exceptions.md R152, entered in the history (92_eei_decisions.md D35). -/
def errorCommit (e : ErrorCode) (info : Word) (s : State) : State :=
  let t := ((s.setError e info).clearResults).logEvent (.error e info)
  if e = .configurationError then t.dropConfig else t

/-- The part of the success commit that every command shares: STATUS.ERR <- 0, ERRINFO <- 0 (60_exceptions.md R153). -/
def successCommit (s : State) : State := s.setError .ok 0#32

/-- What ends a command before its success commit: an error of the block (`raise E(info)`, 00_scope.md R8) or a fault
of the model. -/
inductive Stop where
  | raise (e : ErrorCode) (info : Word)
  | fault (f : Fault)
  deriving DecidableEq, Repr

/-- A check of a command's rule: go on if `p` holds, else `raise e(info)`. -/
def require (p : Prop) [Decidable p] (e : ErrorCode) (info : Word) : Except Stop Unit :=
  if p then .ok () else .error (.raise e info)

/-- How a command ends. Its writes take effect only whole (`raise` abandons them, 00_scope.md R8): a success is the
committed state, an error is the error commit on the state the command began in, a fault has no successor. -/
def finish (s : State) : Except Stop State → Result
  | .ok t => .next t
  | .error (.raise e info) => .next (errorCommit e info s)
  | .error (.fault f) => .fault f

end Sys2Proof.Machine
end

