-- ==== Sys2Proof/Machine/Operands.lean ====
section
/-! DEFINITION. How a command gets its operands (30_encoding.md R63) and the checks over them: widths (40_config.md R80),
lengths (60_exceptions.md R151), the elements IBUF[0 .. n − 1] (70_reset_and_hazards.md R181) and their range
(41_transcode.md R94). -/

namespace Sys2Proof.Machine

/-- W_MIN (00_scope.md R5). -/
def wMin : Nat := 1

/-- W_MAX (00_scope.md R5). -/
def wMax : Nat := 31

/-- A requested width outside [1, 31]; the whole 32-bit operand is compared (40_config.md R80, 30_encoding.md R63). -/
def badWidth (w : Word) : Bool := decide (w.toNat < wMin ∨ w.toNat > wMax)

/-- ERRINFO of CONFIGURATION_ERROR: bit 0 flags ARG0, bit 1 flags ARG1 (60_exceptions.md R151). -/
def badWidthInfo (iw ow : Word) : Word :=
  (if badWidth iw then 1#32 else 0#32) + (if badWidth ow then 2#32 else 0#32)

/-- ERRINFO of an output LENGTH_ERROR: min(L, 2^32 − 1) (60_exceptions.md R151). -/
def lengthInfo (length : Nat) : Word := BitVec.ofNat 32 (min length (2 ^ 32 - 1))

/-- `ceil(a / b)` on exact integers (00_scope.md R7). -/
def ceilDiv (a b : Nat) : Nat := (a + b - 1) / b

/-- Elements `k .. k + n − 1` in index order; the model's fault at the least unwritten one. -/
def readElements (m : Memory) : Nat → Nat → Except Stop (List Word)
  | _, 0 => .ok []
  | k, n + 1 =>
    match m.get k with
    | none => .error (.fault (.unwrittenInput k))
    | some v =>
      match readElements m (k + 1) n with
      | .ok vs => .ok (v :: vs)
      | .error e => .error e

/-- `[MemRead(IBUF, k) for k in 0 .. n−1]` (41_transcode.md R96, 43_codec.md R131). -/
def inputElements (s : State) (n : Nat) : Except Stop (List Word) := readElements s.ibuf 0 n

/-- The least index, counted from `k`, of a value at or above `2^iw`. -/
def firstTooLarge (iw : Nat) : Nat → List Word → Option Nat
  | _, [] => none
  | k, v :: vs => if 2 ^ iw ≤ v.toNat then some k else firstTooLarge iw (k + 1) vs

/-- The range precondition of 41_transcode.md R94: OUT_OF_RANGE with the least failing index. -/
def requireInRange (iw : Nat) (vs : List Word) : Except Stop Unit :=
  match firstTooLarge iw 0 vs with
  | none => .ok ()
  | some k => .error (.raise .outOfRange (BitVec.ofNat 32 k))

end Sys2Proof.Machine
end

