-- ==== Sys2Proof/Machine/Mapper.lean ====
section
/-! DEFINITION. The mapper commands MAPE and MAPD (42_alphabet.md R115 to R117). -/

namespace Sys2Proof.Machine

/-- MapE inside a command: OUT_OF_RANGE(0) above 63 (42_alphabet.md R112). -/
def charOf (v : Word) : Except Stop Word :=
  match mapE v with
  | some c => .ok c
  | none => .error (.raise .outOfRange 0#32)

/-- MapD inside a command: INVALID_CHARACTER(info) for a code point in no block (42_alphabet.md R114; the codec reports
the index, 43_codec.md R134). -/
def sextetOf (c info : Word) : Except Stop Word :=
  match mapD c with
  | some v => .ok v
  | none => .error (.raise .invalidCharacter info)

/-- MAPE (42_alphabet.md R115). -/
def execMape (s : State) : Result :=
  finish s do
    let c ← charOf s.arg0
    return successCommit (s.setResult c)

/-- MAPD (42_alphabet.md R117). -/
def execMapd (s : State) : Result :=
  finish s do
    let v ← sextetOf s.arg0 0#32
    return successCommit (s.setResult v)

end Sys2Proof.Machine
end

