-- ==== Sys2Proof/Machine/Repacker.lean ====
section
/-! DEFINITION. The re-packer datapath: the bit-serial algorithm of 41_transcode.md R90 to R95 on one pair of cells
(I, A). Its integers are unbounded, as the spec's pseudocode has them (00_scope.md R7); 41_transcode.md R99 bounds them.
For B64E and B64D the cells are IDX_S and ACC_S of 10_state.md R33, which live for one command only. -/

namespace Sys2Proof.Machine

/-- The cells (I, A) of one re-packer (41_transcode.md, introduction). `idx` is the one signed value of the spec: it
is −1 inside a bit step when an output value completes (00_scope.md R7, 10_state.md R20). -/
structure Cells where
  idx : Int
  acc : Nat
  deriving DecidableEq, Repr

/-- The reset form for output width `ow`: I = ow − 1, A = 0 (10_state.md R22). -/
def resetForm (ow : Nat) : Cells := ⟨(ow : Int) - 1, 0⟩

/-- BitStep, part 1 (41_transcode.md R90): add 2^I for a 1 bit, then decrement I. -/
def placeBit (b : Bool) (c : Cells) : Cells :=
  ⟨c.idx - 1, if b then c.acc + 2 ^ c.idx.toNat else c.acc⟩

/-- BitStep, part 2 (41_transcode.md R91): at I = −1 emit A and go back to the reset form. The second component is
what is emitted, at most one value. -/
def completeValue (ow : Nat) (c : Cells) : Cells × List Word :=
  if c.idx = -1 then (resetForm ow, [BitVec.ofNat 32 c.acc]) else (c, [])

/-- BitStep(b) (41_transcode.md R90, R91). -/
def bitStep (ow : Nat) (b : Bool) (c : Cells) : Cells × List Word := completeValue ow (placeBit b c)

/-- BitStep for each bit of a list in order: the cells at the end and all that was emitted. -/
def bitSteps (ow : Nat) : List Bool → Cells → Cells × List Word
  | [], c => (c, [])
  | b :: bs, c =>
    let one := bitStep ow b c
    let more := bitSteps ow bs one.1
    (more.1, one.2 ++ more.2)

/-- The bits v[iw−1], …, v[0], most significant first (20_memory.md R46). -/
def valueBits : Nat → Word → List Bool
  | 0, _ => []
  | k + 1, v => v.getLsbD k :: valueBits k v

/-- ValueStep(v) (41_transcode.md R92). -/
def valueStep (iw ow : Nat) (v : Word) (c : Cells) : Cells × List Word := bitSteps ow (valueBits iw v) c

/-- ValueStep for each value of a sequence in order (41_transcode.md R95). -/
def valueSteps (iw ow : Nat) : List Word → Cells → Cells × List Word
  | [], c => (c, [])
  | v :: vs, c =>
    let one := valueStep iw ow v c
    let more := valueSteps iw ow vs one.1
    (more.1, one.2 ++ more.2)

/-- What a finished conversion gives: the pending output, the padding bit count, and the cells. -/
structure Conversion where
  out : List Word
  pad : Nat
  cells : Cells
  deriving DecidableEq, Repr

/-- Flush (41_transcode.md R93) after the values `pending` have been emitted: the partial value, if one is in progress,
its padding bit count, and the cells back in reset form. -/
def flush (ow : Nat) (pending : List Word) (c : Cells) : Conversion :=
  if c.idx ≠ (ow : Int) - 1 then ⟨pending ++ [BitVec.ofNat 32 c.acc], (c.idx + 1).toNat, resetForm ow⟩
  else ⟨pending, 0, resetForm ow⟩

/-- Convert(s, iw, ow) (41_transcode.md R95). It begins by putting the cells in reset form, so no earlier cells enter. -/
def convert (iw ow : Nat) (vs : List Word) : Conversion :=
  let r := valueSteps iw ow vs (resetForm ow)
  flush ow r.2 r.1

end Sys2Proof.Machine
end

