-- ==== Sys2Proof/Machine/Codec.lean ====
section
/-! DEFINITION. The codec commands B64E and B64D (43_codec.md R130 to R137). Each runs a re-packer of its own, on cells
that live for the command only, and touches no configuration cell (R130). -/

namespace Sys2Proof.Machine

/-- The width of an octet: encode's input and decode's output (00_scope.md R5). -/
def octetWidth : Nat := 8

/-- The width of a sextet: encode's output and decode's input (00_scope.md R5). -/
def sextetWidth : Nat := 6

/-- `[MapE(x) for x in sx]` (43_codec.md R131). -/
def charsOf : List Word → Except Stop (List Word)
  | [] => .ok []
  | x :: xs => do
    let c ← charOf x
    let cs ← charsOf xs
    return c :: cs

/-- B64E (43_codec.md R131). -/
def execB64e (s : State) : Result :=
  finish s do
    let n := s.arg0.toNat
    require (n ≤ s.idepth.toNat) .lengthError s.arg0
    let vs ← inputElements s n
    requireInRange octetWidth vs
    let r := convert octetWidth sextetWidth vs
    let main ← charsOf r.out
    let chars := main ++ List.replicate (r.pad / 2) padChar
    let length := chars.length
    require (length ≤ s.odepth.toNat) .lengthError (lengthInfo length)
    return successCommit (s.setOutput chars length r.pad)

/-- The scan of 43_codec.md R134 over elements `k .. k + n − 1`: it stops at the first `=`, and reads nothing after it
(R135); the model's fault at an unwritten element it reads; INVALID_CHARACTER at the first unmappable one. -/
def scanText (m : Memory) : Nat → Nat → Except Stop (List Word)
  | _, 0 => .ok []
  | k, n + 1 =>
    match m.get k with
    | none => .error (.fault (.unwrittenInput k))
    | some c =>
      if c = padChar then .ok []
      else do
        let v ← sextetOf c (BitVec.ofNat 32 k)
        let vs ← scanText m (k + 1) n
        return v :: vs

/-- B64D (43_codec.md R134). -/
def execB64d (s : State) : Result :=
  finish s do
    let n := s.arg0.toNat
    require (n ≤ s.idepth.toNat) .lengthError s.arg0
    let sx ← scanText s.ibuf 0 n
    let r := convert sextetWidth octetWidth sx
    let octets := if r.pad > 0 then r.out.dropLast else r.out
    let length := octets.length
    require (length ≤ s.odepth.toNat) .lengthError (lengthInfo length)
    return successCommit (s.setOutput octets length r.pad)

end Sys2Proof.Machine
end

