-- ==== Sys2Proof/Machine/Configure.lean ====
section
/-! DEFINITION. The configuration commands CFG and INV (40_config.md R80 to R83). -/

namespace Sys2Proof.Machine

/-- CFG (40_config.md R80, R81). -/
def execCfg (s : State) : Result :=
  finish s do
    let iw := s.arg0
    let ow := s.arg1
    require (badWidthInfo iw ow = 0#32) .configurationError (badWidthInfo iw ow)
    return successCommit (s.setConfig (iw.setWidth 5) (ow.setWidth 5))

/-- INV (40_config.md R82): the widths swap, and the new instance is in reset form for its output width. -/
def execInv (s : State) : Result :=
  finish s do
    require (s.cfgv = true) .notConfigured 0#32
    return successCommit (s.setConfig s.outW s.inW)

end Sys2Proof.Machine
end

