-- ==== Sys2Proof/Machine/Transcode.lean ====
section
/-! DEFINITION. The CONV command (41_transcode.md R96). -/

namespace Sys2Proof.Machine

/-- CONV (41_transcode.md R96): the input buffer through the configured re-packer, on IDX and ACC. -/
def execConv (s : State) : Result :=
  finish s do
    let n := s.arg0.toNat
    require (s.cfgv = true) .notConfigured 0#32
    require (n ≤ s.idepth.toNat) .lengthError s.arg0
    let vs ← inputElements s n
    requireInRange s.inW.toNat vs
    let length := ceilDiv (n * s.inW.toNat) s.outW.toNat
    require (length ≤ s.odepth.toNat) .lengthError (lengthInfo length)
    let r := convert s.inW.toNat s.outW.toNat vs
    return successCommit
      ((s.setOutput r.out length r.pad).setCells (BitVec.ofInt 5 r.cells.idx) (BitVec.ofNat 31 r.cells.acc))

end Sys2Proof.Machine
end

