-- ==== Sys2Proof/Machine/Dispatch.lean ====
section
/-! DEFINITION. One arm per command: the meaning of each decoded command word (30_encoding.md R61). -/

namespace Sys2Proof.Machine

/-- The meaning of a command, from issue to commit (20_memory.md R52). -/
def exec (i : Instr) (s : State) : Host.Outcome State Fault Refusal :=
  match i with
  | .cfg => Sys2Proof.Machine.execCfg s
  | .inv => Sys2Proof.Machine.execInv s
  | .conv => Sys2Proof.Machine.execConv s
  | .mape => Sys2Proof.Machine.execMape s
  | .mapd => Sys2Proof.Machine.execMapd s
  | .b64e => Sys2Proof.Machine.execB64e s
  | .b64d => Sys2Proof.Machine.execB64d s

end Sys2Proof.Machine
end

