-- ==== Sys2Proof/Machine/HostAccess.lean ====
section
/-! DEFINITION. What the host and the platform do to the block: issuing a command (30_encoding.md R61), host writes and
reads (20_memory.md R42 to R44), sub-word accesses (R50) and reset (70_reset_and_hazards.md R180). -/

namespace Sys2Proof.Machine

/-- A write of `w` to CMD: the decoded command runs to its commit, and an illegal word is an error commit with
ERRINFO = w (30_encoding.md R61, R64). -/
def issueCommand (w : Word) (s : State) : Result :=
  match decode w with
  | .ok i => exec i s
  | .error _ => .next (errorCommit .illegalCommand w s)

/-- `HostWrite(space, i, v)` (20_memory.md R42). -/
def hostWrite (space : Space) (i v : Word) (s : State) : Result :=
  match space with
  | .reg =>
    match regAt i with
    | some .cmd => issueCommand v s
    | some .arg0 => .next (s.setArg0 v)
    | some .arg1 => .next (s.setArg1 v)
    | _ => .next s
  | .ibuf => if i.toNat < s.idepth.toNat then .next (s.setIbuf i.toNat v) else .next s
  | .obuf => .next s

/-- The value at a location as a host read sees it, none where the spec leaves it unspecified (20_memory.md R43, R44,
70_reset_and_hazards.md R181). Below OUTLEN every OBUF element is listed in any state a run reaches. -/
def hostValue (space : Space) (i : Word) (s : State) : Option Word :=
  match space with
  | .reg =>
    match regAt i with
    | some r => some (readReg r s)
    | none => some 0#32
  | .ibuf => if i.toNat < s.idepth.toNat then s.ibuf.get i.toNat else some 0#32
  | .obuf => if i.toNat < s.outlen.toNat then s.obuf.get i.toNat else some 0#32

/-- `HostRead(space, i)` (20_memory.md R43): the value goes to the host, and nothing of the block changes. An
unspecified value is the next draw. -/
def hostRead (space : Space) (i : Word) (s : State) : State :=
  match hostValue space i s with
  | some v => s.logEvent (.read space i v)
  | none => (s.logEvent (.read space i (Config.freeWord s.draws))).setDraws (s.draws + 1)

/-- Power-on reset (70_reset_and_hazards.md R180, 10_state.md R32). The parameters are the block's; the operations still
to come, the history and the count of draws are no state of the block and go on (assumption 12). -/
def powerOnReset (s : State) : State :=
  { State.resetWith s.idepth s.odepth with
    inputs := s.inputs, events := .reset :: s.events, draws := s.draws }

/-- One operation from outside, on a state whose queue no longer holds it. -/
def perform (x : Input) (s : State) : Result :=
  match x with
  | .write space i v => hostWrite space i v s
  | .read space i => .next (hostRead space i s)
  | .subwordWrite _ _ _ _ => .refused .subwordAccess
  | .subwordRead _ _ _ => .refused .subwordAccess
  | .reset => .next (powerOnReset s)

/-- One step: the oldest operation of the queue; with none left the block waits (60_exceptions.md R172,
70_reset_and_hazards.md R182). -/
def nextInput (s : State) : Result :=
  match s.inputs with
  | [] => .next s
  | x :: rest => perform x (s.withInputs rest)

/-- `HostWrite(REG, 0, w)` as the next operation: the command word the next step takes. -/
def issueNext (w : Word) (s : State) : State := s.withInputs (.write .reg (regIndex .cmd) w :: s.inputs)

end Sys2Proof.Machine
end

