-- ==== Sys2Proof/Machine/Step.lean ====
section
/-! DEFINITION. The step of the machine: one operation from outside, a command run whole (20_memory.md R41, R52). -/

namespace Sys2Proof.Machine

/-- One transition of the machine (20_memory.md R41, R52). -/
def step (s : State) : Host.Outcome State Fault Refusal := nextInput s

/-- The state whose next step runs the command word with bits `w`: the host's write of it to CMD comes first in the
queue (20_memory.md R57: "A command word is taken from the value written to CMD"; assumption 1). A command is one
32-bit word, so bits from 32 up are dropped. -/
def State.withFetchWord (s : State) (nbits w : Nat) : State := issueNext (BitVec.ofNat 32 (w % 2 ^ nbits)) s

end Sys2Proof.Machine
end

