-- ==== Sys2Proof/Machine/Script.lean ====
section
/-! DEFINITION. Host scripts, the assembly language of the block: the operations each line performs (30_encoding.md R66)
and the expansions of the pseudo-instructions (R67). -/

namespace Sys2Proof.Machine

/-- `WR <reg>, <v>` (30_encoding.md R66). -/
def writeReg (r : RegName) (v : Word) : Input := .write .reg (regIndex r) v

/-- `CFG`, `INV`, … with no operands: the command word to CMD (30_encoding.md R66). -/
def issue (c : Instr) : Input := writeReg .cmd (encode c)

/-- `WRI <i>, v0 ; WRI <i+1>, v1 ; …` (30_encoding.md R67). The index is a 32-bit word; the spec does not say what a run
past 2^32 − 1 is, and this definition would wrap it to index 0. Such a line is ill-formed and `runScript` performs none of it.
DESIGN CHOICE (assumption 21). -/
def writeRun : Word → List Word → List Input
  | _, [] => []
  | i, v :: vs => .write .ibuf i v :: writeRun (i + 1#32) vs

/-- The operations of a script line, in order (30_encoding.md R66, R67). A `CHECK` performs its read only; what it
asserts is `checkHolds`. The function is total: for a line `ScriptLine.wf` rejects, which R67 gives no expansion, its value
is the model's own (a run wraps at index 2^32, a character that is not ASCII becomes its Unicode code point), and `runScript`
never performs it. DESIGN CHOICE (assumption 21). -/
def expand : ScriptLine → List Input
  | .wr r v => [writeReg r v]
  | .wri i v => [.write .ibuf i v]
  | .rd r => [.read .reg (regIndex r)]
  | .rdi i => [.read .ibuf i]
  | .rdo i => [.read .obuf i]
  | .cmd w => [writeReg .cmd w]
  | .op c => [issue c]
  | .cfgWith iw ow => [writeReg .arg0 iw, writeReg .arg1 ow, issue .cfg]
  | .convWith n => [writeReg .arg0 n, issue .conv]
  | .mapeWith v => [writeReg .arg0 v, issue .mape]
  | .mapdWith c => [writeReg .arg0 c, issue .mapd]
  | .b64eWith n => [writeReg .arg0 n, issue .b64e]
  | .b64dWith n => [writeReg .arg0 n, issue .b64d]
  | .wris i vs => writeRun i vs
  | .wrisText i text => writeRun i (text.map fun c => BitVec.ofNat 32 c.toNat)
  | .check r _ => [.read .reg (regIndex r)]
  | .checko i _ => [.read .obuf i]

/-- The operations of a whole script, in order. -/
def assemble (lines : List ScriptLine) : List Input := lines.flatMap expand

/-- What a line asserts of the value just read, looked up in the history after its operations (30_encoding.md R67): "the
script fails unless the value read equals v". Every other line asserts nothing. -/
def checkHolds (line : ScriptLine) (s : State) : Bool :=
  match line with
  | .check r v => s.events.head? == some (.read .reg (regIndex r) v)
  | .checko i v => s.events.head? == some (.read .obuf i v)
  | .wr _ _ => true
  | .wri _ _ => true
  | .rd _ => true
  | .rdi _ => true
  | .rdo _ => true
  | .cmd _ => true
  | .op _ => true
  | .cfgWith _ _ => true
  | .convWith _ => true
  | .mapeWith _ => true
  | .mapdWith _ => true
  | .b64eWith _ => true
  | .b64dWith _ => true
  | .wris _ _ => true
  | .wrisText _ _ => true

/-- How a script ends. -/
inductive ScriptOutcome where
  /-- Every line ran and every check held. -/
  | done (s : State)
  /-- The check of this line did not hold (30_encoding.md R67). -/
  | checkFailed (line : ScriptLine) (s : State)
  /-- This line is none of the spec's (`ScriptLine.wf`); none of its operations was performed. DESIGN CHOICE (assumption 21). -/
  | illFormed (line : ScriptLine) (s : State)
  /-- A step of the machine faulted. -/
  | fault (f : Fault)
  /-- A step of the machine was refused. -/
  | refused (r : Refusal)
  deriving DecidableEq, Repr

/-- Steps of the machine, one for each operation a line put in the queue. -/
def stepTimes : Nat → State → Result
  | 0, s => .next s
  | n + 1, s =>
    match step s with
    | .next t => stepTimes n t
    | .fault f => .fault f
    | .refused r => .refused r

/-- A script run line by line: an ill-formed line ends it before any of that line's operations (DESIGN CHOICE,
assumption 21); a well-formed line's operations come first in the queue, and its check is judged after them. -/
def runScript : List ScriptLine → State → ScriptOutcome
  | [], s => .done s
  | line :: lines, s =>
    if line.wf then
      match stepTimes (expand line).length (s.withInputs (expand line ++ s.inputs)) with
      | .next t => if checkHolds line t then runScript lines t else .checkFailed line t
      | .fault f => .fault f
      | .refused r => .refused r
    else .illFormed line s

end Sys2Proof.Machine
end

