-- ==== Sys2Proof/Safety.lean ====
section
/-! DEFINITION. The terms claims are stated in: the states a run can reach (10_state.md R23, R24), what a safe command needs
(70_reset_and_hazards.md R183), the state an error leaves (60_exceptions.md R152), and the closed forms of the conversion
(41_transcode.md R97) and of the alphabet (42_alphabet.md R113), written apart from the machine. -/

namespace Sys2Proof.Safety

open Sys2Proof.Machine

/-- A buffer whose listed elements lie below its depth, in the canonical form. -/
structure BufferOk (m : Memory) (depth : Nat) : Prop where
  wf : m.Wf
  bounded : ∀ p ∈ m, p.1 < depth

/-- What every state between operations satisfies. -/
structure Inv (s : State) : Prop where
  /-- IBUF_DEPTH is in [1, 2^32 − 1] (00_scope.md R6). -/
  idepth_pos : s.idepth ≠ 0#32
  /-- OBUF_DEPTH is in [1, 2^32 − 1] (00_scope.md R6). -/
  odepth_pos : s.odepth ≠ 0#32
  /-- CFGV = 1: both widths lie in [1, 31], and the re-packer is in reset form (10_state.md R23, R24). -/
  configured : s.cfgv = true → s.inW ≠ 0#5 ∧ s.outW ≠ 0#5 ∧ s.idx = s.outW - 1#5 ∧ s.acc = 0#31
  /-- CFGV = 0: no re-packer exists, and all its cells are 0 (10_state.md R20, R23). -/
  unconfigured : s.cfgv = false → s.inW = 0#5 ∧ s.outW = 0#5 ∧ s.idx = 0#5 ∧ s.acc = 0#31
  /-- ERR = 0: there is no error information (60_exceptions.md R153). -/
  ok_info : s.err = .ok → s.errinfo = 0#32
  /-- ERR ≠ 0: "no partial output returned" (60_exceptions.md R152). -/
  error_cleared : s.err ≠ .ok → s.result = 0#32 ∧ s.outlen = 0#32 ∧ s.pad = 0#32
  /-- A failed construction leaves no usable instance (40_config.md R80); CONV and INV report NOT_CONFIGURED only without
  one (60_exceptions.md R150). -/
  error_unconfigured : s.err = .configurationError ∨ s.err = .notConfigured → s.cfgv = false
  /-- PAD never exceeds 30 (10_state.md R18). -/
  pad_le : s.pad.toNat ≤ 30
  /-- An output fits OBUF (60_exceptions.md R150). -/
  outlen_le : s.outlen.toNat ≤ s.odepth.toNat
  /-- Every element below OUTLEN was written by a commit (20_memory.md R44, R53). -/
  output_listed : ∀ k, k < s.outlen.toNat → (s.obuf.get k).isSome
  /-- IBUF is in its canonical form, with nothing at or above its depth (20_memory.md R42). -/
  ibuf_ok : BufferOk s.ibuf s.idepth.toNat
  /-- OBUF is in its canonical form, with nothing at or above its depth (20_memory.md R53). -/
  obuf_ok : BufferOk s.obuf s.odepth.toNat

/-- A buffer holds a sequence from index 0 on (20_memory.md R45). -/
def Holds (m : Memory) (vs : List Word) : Prop := ∀ k, ∀ h : k < vs.length, m.get k = some vs[k]

/-- The state after an error commit of an error other than CONFIGURATION_ERROR (60_exceptions.md R152), the commit entered
in the history (92_eei_decisions.md D35). -/
def reported (e : ErrorCode) (info : Word) (s : State) : State :=
  { s with err := e, errinfo := info, result := 0#32, outlen := 0#32, pad := 0#32, events := .error e info :: s.events }

/-- The state after the error commit of CONFIGURATION_ERROR (60_exceptions.md R152): no usable instance either. -/
def reportedUnconfigured (info : Word) (s : State) : State :=
  { s with
    err := .configurationError, errinfo := info, result := 0#32, outlen := 0#32, pad := 0#32
    cfgv := false, inW := 0#5, outW := 0#5, idx := 0#5, acc := 0#31
    events := .error .configurationError info :: s.events }

/-! ## The closed form of the conversion -/

/-- Bit `j` of the stream of a sequence at input width `iw` (20_memory.md R47), and 0 past its end (the padding bits of
41_transcode.md R97). -/
def streamBit (iw : Nat) (vs : List Word) (j : Nat) : Bool :=
  match vs[j / iw]? with
  | some v => v.getLsbD (iw - 1 - j % iw)
  | none => false

/-- The unsigned value of the `width` bits from position `start` on, the first one most significant. -/
def fieldValue (bit : Nat → Bool) (start : Nat) : Nat → Nat
  | 0 => 0
  | width + 1 => 2 * fieldValue bit start width + (bit (start + width)).toNat

/-- L = ceil(n·iw / ow) (41_transcode.md R98). -/
def outputLength (iw ow n : Nat) : Nat := (n * iw + ow - 1) / ow

/-- pad = L·ow − n·iw (41_transcode.md R97). -/
def paddingBits (iw ow n : Nat) : Nat := outputLength iw ow n * ow - n * iw

/-- out[k] is the value of bits k·ow … k·ow + ow − 1 (41_transcode.md R97). -/
def repacked (iw ow : Nat) (vs : List Word) : List Word :=
  (List.range (outputLength iw ow vs.length)).map fun k =>
    BitVec.ofNat 32 (fieldValue (streamBit iw vs) (k * ow) ow)

/-! ## The alphabet -/

/-- The code point of a sextet 0 .. 63: the table of 42_alphabet.md R113. -/
def alphabetCode (v : Nat) : Nat :=
  if v < 26 then 0x41 + v
  else if v < 52 then 0x61 + (v - 26)
  else if v < 62 then 0x30 + (v - 52)
  else if v = 62 then 0x2B
  else 0x2F

/-- The character of a sextet, as an element holds it. -/
def alphabetChar (v : Word) : Word := BitVec.ofNat 32 (alphabetCode v.toNat)

/-! ## Base-64 text -/

/-- The length of the text of `n` octets (43_codec.md R133). -/
def textLength (n : Nat) : Nat := 4 * ((n + 2) / 3)

/-- The encoder's padding bits for `n` octets (43_codec.md R132). -/
def textPadding (n : Nat) : Nat :=
  if n % 3 = 1 then 4 else if n % 3 = 2 then 2 else 0

/-- The base-64 text of a byte sequence (43_codec.md R131). -/
def textOf (bytes : List Word) : List Word :=
  (repacked 8 6 bytes).map alphabetChar ++ List.replicate (textPadding bytes.length / 2) 0x3D#32

/-- The octets of a sequence of sextets: the whole octets of its bit stream (43_codec.md R136). -/
def octetsOf (sextets : List Word) : List Word :=
  (repacked 6 8 sextets).take (6 * sextets.length / 8)

/-- IBUF begins with the characters of these sextets, and the scan of B64D ends there: at the length `n` or at the first
`=` (43_codec.md R134, R135). -/
def TextHolds (m : Memory) (n : Nat) (sextets : List Word) : Prop :=
  (∀ v ∈ sextets, v.toNat < 64) ∧
  Holds m (sextets.map alphabetChar) ∧
  (sextets.length = n ∨ sextets.length < n ∧ m.get sextets.length = some 0x3D#32)

/-! ## Safe commands -/

/-- The elements a command is given are written (70_reset_and_hazards.md R183, step 2). -/
def Written (m : Memory) (n : Nat) : Prop := ∀ k, k < n → (m.get k).isSome

/-- A safe run of a command: it ends in its commit, with success or with an error, and not in a fault of the model. -/
def Safe (i : Instr) (s : State) : Prop := ∃ t, exec i s = .next t

end Sys2Proof.Safety
end

