-- ==== Sys2Proof/Certificates/Slice0/Obligations.lean ====
section
/-! DEFINITION. The statements for the provers, each from a numbered rule of spec/. Depths are those of the state, so every
statement over states holds for all IBUF_DEPTH and OBUF_DEPTH (93_implementation_defined.md section 1). -/

open Sys2Proof Sys2Proof.Machine Sys2Proof.Safety

/-! ## Encoding and decoding -/

/-- 30_encoding.md R62: each row's command word is the exact 32-bit value that selects it, over all 2^32 words, and the
encoder gives the words of the table. -/
def Obligations.CommandWordsSelectExactly : Prop :=
  (∀ (w : Word) (i : Instr), decode w = .ok i ↔ w = encode i) ∧
  encode .cfg = 0x00000001#32 ∧ encode .inv = 0x00000002#32 ∧ encode .conv = 0x00000003#32 ∧
  encode .mape = 0x00000004#32 ∧ encode .mapd = 0x00000005#32 ∧ encode .b64e = 0x00000006#32 ∧
  encode .b64d = 0x00000007#32

/-- Words written out from 30_encoding.md R62 decode to their commands, and words of R64 to none; a sanity check. -/
def Obligations.SampleWordsDecode : Prop :=
  decodeTableWord 32 0b00000000000000000000000000000001 = some .cfg ∧
  decodeTableWord 32 0b00000000000000000000000000000010 = some .inv ∧
  decodeTableWord 32 0b00000000000000000000000000000011 = some .conv ∧
  decodeTableWord 32 0b00000000000000000000000000000101 = some .mapd ∧
  decodeTableWord 32 0b00000000000000000000000000000111 = some .b64d ∧
  decodeTableWord 32 0b00000000000000000000000000000000 = none ∧
  decodeTableWord 32 0b00000000000000000000000000001000 = none ∧
  decodeTableWord 32 0b00000000000000000000000000010011 = none ∧
  decodeTableWord 32 0b10000000000000000000000000000001 = none

/-- 30_encoding.md R64: a word with RSV ≠ 0 or a reserved opcode has the error commit of ILLEGAL_COMMAND as its only
effect, with ERRINFO the word. -/
def Obligations.IllegalWordsOnlyReportThemselves : Prop :=
  ∀ (s : State) (w : Word) (rest : List Input),
    s.inputs = .write .reg 0#32 w :: rest →
    (w.toNat / 16 ≠ 0 ∨ w.toNat % 16 = 0 ∨ 8 ≤ w.toNat % 16) →
    step s = .next (reported .illegalCommand w { s with inputs := rest })

/-! ## The step -/

/-- A step whose next operation writes a command word runs the decoded command on the state without that operation; and
`withFetchWord` puts exactly that operation first. -/
def Obligations.StepRunsDecodedCommand : Prop :=
  (∀ (s : State) (w : Word) (i : Instr) (rest : List Input),
    s.inputs = .write .reg 0#32 w :: rest → decode w = .ok i → step s = exec i { s with inputs := rest }) ∧
  (∀ (s : State) (nbits w : Nat) (i : Instr),
    decodeTableWord nbits w = some i → step (s.withFetchWord nbits w) = exec i s)

/-- With no operation left the block waits and holds its state (60_exceptions.md R172, 70_reset_and_hazards.md R182). -/
def Obligations.WaitsWithoutInput : Prop := ∀ s : State, s.inputs = [] → step s = .next s

/-- A step has no successor in two cases only. (1) A command word of CONV, B64E or B64D whose earlier checks pass meets the
least unwritten element among those the command reads (70_reset_and_hazards.md R181, 60_exceptions.md R160): CONV is configured, the
length is within the depth, and B64D has met neither `=` (43_codec.md R135) nor an unmappable character (that its scan stops at one is
the model's reading, assumption 6) below that element. (2) The operation is a sub-word access (20_memory.md R50). -/
def Obligations.StepsStopOnlyWhereTheSpecSays : Prop :=
  (∀ (s : State) (f : Fault), step s = .fault f →
    ∃ (w : Word) (rest : List Input) (k : Nat),
      s.inputs = .write .reg 0#32 w :: rest ∧
      (w = 3#32 ∧ s.cfgv = true ∨ w = 6#32 ∨
        w = 7#32 ∧ ∀ j, j < k → ∃ c, s.ibuf.get j = some c ∧ c ≠ 0x3D#32 ∧ (mapD c).isSome) ∧
      f = .unwrittenInput k ∧ k < s.arg0.toNat ∧ s.arg0.toNat ≤ s.idepth.toNat ∧ s.ibuf.get k = none ∧
      ∀ j, j < k → (s.ibuf.get j).isSome) ∧
  (∀ (s : State) (r : Refusal), step s = .refused r →
    r = .subwordAccess ∧ ∃ (x : Input) (rest : List Input), s.inputs = x :: rest ∧ x.wf = false)

/-! ## Reset -/

/-- Every piece of state after a reset, whatever it was before (10_state.md R32). The operations still to come, the history
and the draws are the model's own and go on (assumption 12), and so is the choice that OBUF's storage, which R32 leaves
unspecified and unobservable, lists nothing (assumption 8). -/
def Obligations.ResetSetsEveryCell : Prop :=
  ∀ (s : State) (rest : List Input),
    s.inputs = .reset :: rest →
    step s = .next
      { cfgv := false, inW := 0#5, outW := 0#5, idx := 0#5, acc := 0#31, arg0 := 0#32, arg1 := 0#32, err := .ok
        result := 0#32, outlen := 0#32, pad := 0#32, errinfo := 0#32, idepth := s.idepth, odepth := s.odepth
        ibuf := [], obuf := [], inputs := rest, events := .reset :: s.events, draws := s.draws }

/-! ## Invariants -/

/-- The invariant holds after reset for every pair of depths in range (00_scope.md R6), and so at `State.reset`. -/
def Obligations.InvariantHoldsAtReset : Prop :=
  (∀ d e : Word, d ≠ 0#32 → e ≠ 0#32 → Inv (State.resetWith d e)) ∧ Inv State.reset

/-- Every operation keeps the invariant, from every state that satisfies it: widths in [1, 31] and the re-packer in reset
form exactly when configured (10_state.md R23, R24), results cleared after an error (60_exceptions.md R152), PAD at most 30
(10_state.md R18), an output that fits OBUF and is all there (20_memory.md R44, R53), buffers in canonical form. -/
def Obligations.StepKeepsInvariant : Prop := ∀ s t : State, Inv s → step s = .next t → Inv t

/-- 10_state.md R25: between bit steps every bit of ACC at or below IDX is 0; so ACC ≠ 0 implies IDX < OUT_W − 1, and
adding 2^IDX sets bit IDX. IDX and ACC stay in the ranges of R24. -/
def Obligations.AccumulatorIsClearBelowIndex : Prop :=
  ∀ (ow : Nat) (bits : List Bool), 1 ≤ ow → ow ≤ 31 →
    let c := (bitSteps ow bits (resetForm ow)).1
    (0 ≤ c.idx ∧ c.idx ≤ (ow : Int) - 1 ∧ c.acc < 2 ^ ow) ∧
    c.acc % 2 ^ (c.idx.toNat + 1) = 0 ∧
    (c.acc ≠ 0 → c.idx < (ow : Int) - 1) ∧
    c.acc + 2 ^ c.idx.toNat = c.acc ||| 2 ^ c.idx.toNat

/-! ## What commands write and leave -/

/-- 60_exceptions.md R152: a command that ends in error makes exactly the error commit's writes, an illegal word among
them, and every OBUF read returns 0 from then on. (That the commit enters the model's history is 92_eei_decisions.md D35,
assumption 13.) -/
def Obligations.CommandsInErrorMakeExactlyTheErrorCommit : Prop :=
  (∀ (i : Instr) (s t : State), exec i s = .next t → t.err ≠ .ok →
    (t.err ≠ .configurationError → t = reported t.err t.errinfo s) ∧
    (t.err = .configurationError → t = reportedUnconfigured t.errinfo s)) ∧
  (∀ (w : Word) (d : DecodeError) (s : State), decode w = .error d →
    issueCommand w s = .next (reported .illegalCommand w s)) ∧
  (∀ (e : ErrorCode) (info k : Word) (s : State),
    hostValue .obuf k (reported e info s) = some 0#32 ∧ hostValue .obuf k (reportedUnconfigured info s) = some 0#32)

/-- No command writes ARG0, ARG1 (10_state.md R14), IBUF (R27), IDEPTH or ODEPTH (R19), whether it succeeds or ends in
error; nor the model's queue and draws. A success writes no history, and an error exactly one entry
(92_eei_decisions.md D35). -/
def Obligations.CommandsLeaveOperandsAndInput : Prop :=
  ∀ (i : Instr) (s t : State), exec i s = .next t →
    t.arg0 = s.arg0 ∧ t.arg1 = s.arg1 ∧ (∀ k, t.ibuf.get k = s.ibuf.get k) ∧
    t.idepth = s.idepth ∧ t.odepth = s.odepth ∧ t.inputs = s.inputs ∧ t.draws = s.draws ∧
    t.events = (if t.err = .ok then s.events else .error t.err t.errinfo :: s.events)

/-- Which cells a successful command leaves (10_state.md R17, R18, R22, R23; 43_codec.md R130; 60_exceptions.md R153). CFG
and INV write no result; MAPE and MAPD only RESULT; CONV no configuration; B64E and B64D neither configuration nor
re-packer. Every success clears ERRINFO. -/
def Obligations.SuccessfulCommandsWriteOnlyTheirResults : Prop :=
  ∀ (i : Instr) (s t : State), exec i s = .next t → t.err = .ok →
    t.errinfo = 0#32 ∧
    (i = .cfg ∨ i = .inv →
      t.result = s.result ∧ t.outlen = s.outlen ∧ t.pad = s.pad ∧ ∀ k, t.obuf.get k = s.obuf.get k) ∧
    (i = .mape ∨ i = .mapd →
      t.outlen = s.outlen ∧ t.pad = s.pad ∧ (∀ k, t.obuf.get k = s.obuf.get k) ∧
      t.cfgv = s.cfgv ∧ t.inW = s.inW ∧ t.outW = s.outW ∧ t.idx = s.idx ∧ t.acc = s.acc) ∧
    (i = .conv → t.result = s.result ∧ t.cfgv = s.cfgv ∧ t.inW = s.inW ∧ t.outW = s.outW) ∧
    (i = .b64e ∨ i = .b64d →
      t.result = s.result ∧ t.cfgv = s.cfgv ∧ t.inW = s.inW ∧ t.outW = s.outW ∧ t.idx = s.idx ∧ t.acc = s.acc)

/-- 20_memory.md R53: a command that writes OBUF stores to elements 0 .. OUTLEN − 1 and leaves every other element of
storage; every element of IBUF reads as before. An error stores nothing (60_exceptions.md R152). -/
def Obligations.OutputCommandsStoreOnlyBelowOutlen : Prop :=
  ∀ (i : Instr) (s t : State), Inv s → (i = .conv ∨ i = .b64e ∨ i = .b64d) → exec i s = .next t →
    (t.err = .ok → ∀ k, t.outlen.toNat ≤ k → t.obuf.get k = s.obuf.get k) ∧
    (t.err = .ok → ∀ k, k < t.outlen.toNat → (t.obuf.get k).isSome) ∧
    (t.err ≠ .ok → ∀ k, t.obuf.get k = s.obuf.get k) ∧
    (∀ k, t.ibuf.get k = s.ibuf.get k)

/-- 60_exceptions.md R150: the error codes each command can end in. ILLEGAL_COMMAND is no command's: it is the decoder's. -/
def Obligations.ErrorCodesEachCommandCanRaise : Prop :=
  ∀ (i : Instr) (s t : State), exec i s = .next t → t.err ≠ .ok →
    match i with
    | .cfg => t.err = .configurationError
    | .inv => t.err = .notConfigured
    | .conv => t.err = .notConfigured ∨ t.err = .lengthError ∨ t.err = .outOfRange
    | .mape => t.err = .outOfRange
    | .mapd => t.err = .invalidCharacter
    | .b64e => t.err = .lengthError ∨ t.err = .outOfRange
    | .b64d => t.err = .lengthError ∨ t.err = .invalidCharacter

/-! ## CFG and INV -/

/-- 40_config.md R80: command word 1; both widths in [1, 31] construct the re-packer in reset form and change nothing else; otherwise
CONFIGURATION_ERROR, with bit 0 for ARG0 and bit 1 for ARG1, and no usable instance. -/
def Obligations.CfgConstructsOrLeavesNoInstance : Prop :=
  encode .cfg = 0x00000001#32 ∧
  ∀ s : State,
    (1 ≤ s.arg0.toNat ∧ s.arg0.toNat ≤ 31 ∧ 1 ≤ s.arg1.toNat ∧ s.arg1.toNat ≤ 31 →
      exec .cfg s = .next
        { s with
          cfgv := true, inW := BitVec.ofNat 5 s.arg0.toNat, outW := BitVec.ofNat 5 s.arg1.toNat
          idx := BitVec.ofNat 5 (s.arg1.toNat - 1), acc := 0#31, err := .ok, errinfo := 0#32 }) ∧
    (¬ (1 ≤ s.arg0.toNat ∧ s.arg0.toNat ≤ 31) ∧ 1 ≤ s.arg1.toNat ∧ s.arg1.toNat ≤ 31 →
      exec .cfg s = .next (reportedUnconfigured 1#32 s)) ∧
    (1 ≤ s.arg0.toNat ∧ s.arg0.toNat ≤ 31 ∧ ¬ (1 ≤ s.arg1.toNat ∧ s.arg1.toNat ≤ 31) →
      exec .cfg s = .next (reportedUnconfigured 2#32 s)) ∧
    (¬ (1 ≤ s.arg0.toNat ∧ s.arg0.toNat ≤ 31) ∧ ¬ (1 ≤ s.arg1.toNat ∧ s.arg1.toNat ≤ 31) →
      exec .cfg s = .next (reportedUnconfigured 3#32 s))

/-- 40_config.md R82: command word 2; INV swaps the widths of the one instance and puts it in reset form for its new output width, and
changes nothing else; without an instance it reports NOT_CONFIGURED. -/
def Obligations.InvSwapsWidthsOrReportsNotConfigured : Prop :=
  encode .inv = 0x00000002#32 ∧
  ∀ s : State, Inv s →
    (s.cfgv = true →
      exec .inv s = .next
        { s with
          inW := s.outW, outW := s.inW, idx := BitVec.ofNat 5 (s.inW.toNat - 1), acc := 0#31
          err := .ok, errinfo := 0#32 }) ∧
    (s.cfgv = false → exec .inv s = .next (reported .notConfigured 0#32 s))

/-- 40_config.md R83: two INV in a row restore IN_W, OUT_W, IDX and ACC, and CFG a, b then INV leaves the configuration
and re-packer state of CFG b, a. -/
def Obligations.InvIsAnInvolution : Prop :=
  (∀ s : State, Inv s → s.cfgv = true →
    ∃ t u : State, exec .inv s = .next t ∧ exec .inv t = .next u ∧
      u.cfgv = s.cfgv ∧ u.inW = s.inW ∧ u.outW = s.outW ∧ u.idx = s.idx ∧ u.acc = s.acc) ∧
  (∀ (s : State) (a b : Word), 1 ≤ a.toNat → a.toNat ≤ 31 → 1 ≤ b.toNat → b.toNat ≤ 31 →
    ∃ t u v : State,
      exec .cfg { s with arg0 := a, arg1 := b } = .next t ∧ exec .inv t = .next u ∧
      exec .cfg { s with arg0 := b, arg1 := a } = .next v ∧
      u.cfgv = v.cfgv ∧ u.inW = v.inW ∧ u.outW = v.outW ∧ u.idx = v.idx ∧ u.acc = v.acc)

/-! ## The conversion -/

/-- 41_transcode.md R97: the bit-serial conversion gives the values of consecutive output-width fields of the input's bit
stream followed by the padding zeros, and the padding bit count. -/
def Obligations.ConversionMatchesClosedForm : Prop :=
  ∀ (iw ow : Nat) (vs : List Word), 1 ≤ iw → iw ≤ 31 → 1 ≤ ow → ow ≤ 31 →
    (∀ v ∈ vs, v.toNat < 2 ^ iw) →
    (convert iw ow vs).out = repacked iw ow vs ∧ (convert iw ow vs).pad = paddingBits iw ow vs.length

/-- 41_transcode.md R98: the output length is ceil(n·iw / ow) on exact integers, and the padding count is 0 exactly when
n·iw is a multiple of ow, otherwise ow − (n·iw mod ow), between 1 and ow − 1. -/
def Obligations.ConversionLengthAndPadding : Prop :=
  ∀ (iw ow : Nat) (vs : List Word), 1 ≤ iw → iw ≤ 31 → 1 ≤ ow → ow ≤ 31 →
    (convert iw ow vs).out.length = (vs.length * iw + ow - 1) / ow ∧
    ((convert iw ow vs).pad = 0 ↔ vs.length * iw % ow = 0) ∧
    (vs.length * iw % ow ≠ 0 →
      (convert iw ow vs).pad = ow - vs.length * iw % ow ∧
      1 ≤ (convert iw ow vs).pad ∧ (convert iw ow vs).pad ≤ ow - 1)

/-- 41_transcode.md R100: the inverse conversion returns the original sequence followed by ceil(p / a) zeros, with the
padding count ceil(p / a)·a − p; that is at most ceil((b − 1) / a) extra elements. -/
def Obligations.InverseConversionReturnsTheInput : Prop :=
  ∀ (a b : Nat) (vs : List Word), 1 ≤ a → a ≤ 31 → 1 ≤ b → b ≤ 31 → (∀ v ∈ vs, v.toNat < 2 ^ a) →
    let r := convert a b vs
    let extra := (r.pad + a - 1) / a
    (convert b a r.out).out = vs ++ List.replicate extra 0#32 ∧
    (convert b a r.out).pad = extra * a - r.pad ∧
    extra ≤ (b - 1 + a - 1) / a

/-- With equal widths the conversion is the identity on in-range values, with no padding (40_config.md R80,
41_transcode.md R96, corner cases). -/
def Obligations.EqualWidthsConvertToThemselves : Prop :=
  ∀ (w : Nat) (vs : List Word), 1 ≤ w → w ≤ 31 → (∀ v ∈ vs, v.toNat < 2 ^ w) →
    (convert w w vs).out = vs ∧ (convert w w vs).pad = 0

/-- 41_transcode.md R96, R97: CONV on a written, in-range input that fits commits the closed form of the conversion with
its length and padding, leaves the re-packer in reset form, and writes nothing else. -/
def Obligations.ConvCommitsTheConversion : Prop :=
  ∀ (s : State) (vs : List Word), Inv s → s.cfgv = true →
    s.arg0.toNat ≤ s.idepth.toNat → vs.length = s.arg0.toNat → Holds s.ibuf vs →
    (∀ v ∈ vs, v.toNat < 2 ^ s.inW.toNat) →
    outputLength s.inW.toNat s.outW.toNat vs.length ≤ s.odepth.toNat →
    exec .conv s = .next
      { s with
        obuf := s.obuf.setAll 0 (repacked s.inW.toNat s.outW.toNat vs)
        outlen := BitVec.ofNat 32 (outputLength s.inW.toNat s.outW.toNat vs.length)
        pad := BitVec.ofNat 32 (paddingBits s.inW.toNat s.outW.toNat vs.length)
        idx := s.outW - 1#5, acc := 0#31, err := .ok, errinfo := 0#32 }

/-- CONV reports the first check that fails, in the order of 60_exceptions.md R160: no configuration, input too long, the
least element out of range, output too long; and it has no successor on an unwritten element it reads
(70_reset_and_hazards.md R181). -/
def Obligations.ConvReportsItsFirstFailingCheck : Prop :=
  ∀ s : State, Inv s →
    (s.cfgv = false → exec .conv s = .next (reported .notConfigured 0#32 s)) ∧
    (s.cfgv = true → s.idepth.toNat < s.arg0.toNat →
      exec .conv s = .next (reported .lengthError s.arg0 s)) ∧
    (∀ k, s.cfgv = true → s.arg0.toNat ≤ s.idepth.toNat → k < s.arg0.toNat → s.ibuf.get k = none →
      (∀ j, j < k → (s.ibuf.get j).isSome) → exec .conv s = .fault (.unwrittenInput k)) ∧
    (∀ (vs : List Word) (k : Nat) (h : k < vs.length), s.cfgv = true → s.arg0.toNat ≤ s.idepth.toNat →
      vs.length = s.arg0.toNat → Holds s.ibuf vs → 2 ^ s.inW.toNat ≤ vs[k].toNat →
      (∀ j, ∀ hj : j < k, vs[j].toNat < 2 ^ s.inW.toNat) →
      exec .conv s = .next (reported .outOfRange (BitVec.ofNat 32 k) s)) ∧
    (∀ vs : List Word, s.cfgv = true → s.arg0.toNat ≤ s.idepth.toNat →
      vs.length = s.arg0.toNat → Holds s.ibuf vs → (∀ v ∈ vs, v.toNat < 2 ^ s.inW.toNat) →
      s.odepth.toNat < outputLength s.inW.toNat s.outW.toNat vs.length →
      exec .conv s = .next (reported .lengthError
        (BitVec.ofNat 32 (min (outputLength s.inW.toNat s.outW.toNat vs.length) (2 ^ 32 - 1))) s))

/-- 41_transcode.md R101: what CONV commits depends only on the widths, n and IBUF[0 .. n − 1] (and, for its errors, on the
configuration flag and the depths): not on the re-packer's cells, on the rest of IBUF, on OBUF or on earlier results. -/
def Obligations.ConvDependsOnlyOnItsOperands : Prop :=
  ∀ s u t : State, Inv s → Inv u →
    u.cfgv = s.cfgv → u.inW = s.inW → u.outW = s.outW → u.arg0 = s.arg0 → u.idepth = s.idepth → u.odepth = s.odepth →
    (∀ k, k < s.arg0.toNat → u.ibuf.get k = s.ibuf.get k) →
    exec .conv s = .next t →
    ∃ v, exec .conv u = .next v ∧ v.err = t.err ∧ v.errinfo = t.errinfo ∧ v.outlen = t.outlen ∧ v.pad = t.pad ∧
      v.idx = t.idx ∧ v.acc = t.acc ∧ ∀ k, k < t.outlen.toNat → v.obuf.get k = t.obuf.get k

/-! ## The mapper -/

/-- 42_alphabet.md R115, R116: command word 4; MAPE gives the alphabet's character of a sextet 0 .. 63 in RESULT and writes nothing else but the
cleared error; above 63 it reports OUT_OF_RANGE. The whole 32-bit operand counts. -/
def Obligations.MapeGivesTheAlphabetCharacter : Prop :=
  encode .mape = 0x00000004#32 ∧
  ∀ s : State,
    (s.arg0.toNat < 64 →
      exec .mape s = .next
        { s with result := BitVec.ofNat 32 (alphabetCode s.arg0.toNat), err := .ok, errinfo := 0#32 }) ∧
    (64 ≤ s.arg0.toNat → exec .mape s = .next (reported .outOfRange 0#32 s))

/-- 42_alphabet.md R117: command word 5; MAPD gives the sextet of an alphabet character in RESULT and writes nothing else but the cleared
error; for every other 32-bit code point it reports INVALID_CHARACTER. -/
def Obligations.MapdGivesTheSextet : Prop :=
  encode .mapd = 0x00000005#32 ∧
  ∀ s : State,
    (∀ v, v < 64 → s.arg0.toNat = alphabetCode v →
      exec .mapd s = .next { s with result := BitVec.ofNat 32 v, err := .ok, errinfo := 0#32 }) ∧
    ((∀ v, v < 64 → s.arg0.toNat ≠ alphabetCode v) →
      exec .mapd s = .next (reported .invalidCharacter 0#32 s))

/-- 42_alphabet.md R118: the maps undo each other, and exactly 64 code points succeed under MapD. -/
def Obligations.MapperMapsAreInverse : Prop :=
  (∀ v : Word, v.toNat < 64 → ∃ c, mapE v = some c ∧ mapD c = some v) ∧
  (∀ c v : Word, mapD c = some v → mapE v = some c) ∧
  (∃ chars : List Word, chars.Nodup ∧ chars.length = 64 ∧ ∀ c : Word, (mapD c).isSome ↔ c ∈ chars)

/-! ## The codec -/

/-- 43_codec.md R131: B64E on written octets whose text fits commits the base-64 text, its length and the conversion's
padding count, and writes nothing else. -/
def Obligations.B64eCommitsTheText : Prop :=
  ∀ (s : State) (vs : List Word),
    s.arg0.toNat ≤ s.idepth.toNat → vs.length = s.arg0.toNat → Holds s.ibuf vs →
    (∀ v ∈ vs, v.toNat < 256) → textLength vs.length ≤ s.odepth.toNat →
    exec .b64e s = .next
      { s with
        obuf := s.obuf.setAll 0 (textOf vs), outlen := BitVec.ofNat 32 (textLength vs.length)
        pad := BitVec.ofNat 32 (textPadding vs.length), err := .ok, errinfo := 0#32 }

/-- 43_codec.md R132, R133: a successful B64E writes PAD 0, 4 or 2 for n mod 3 = 0, 1 or 2, and 4·ceil(n / 3) characters, of
which exactly the last PAD div 2 are `=`. -/
def Obligations.EncodedTextLengthAndPadding : Prop :=
  ∀ s t : State, exec .b64e s = .next t → t.err = .ok →
    t.pad.toNat = (if s.arg0.toNat % 3 = 0 then 0 else if s.arg0.toNat % 3 = 1 then 4 else 2) ∧
    t.outlen.toNat = 4 * ((s.arg0.toNat + 2) / 3) ∧
    t.outlen.toNat = (8 * s.arg0.toNat + 5) / 6 + t.pad.toNat / 2 ∧
    (∀ k, k < t.outlen.toNat → (t.obuf.get k = some 0x3D#32 ↔ t.outlen.toNat - t.pad.toNat / 2 ≤ k))

/-- B64E reports the first check that fails, in the order of 60_exceptions.md R160, and has no successor on an unwritten
element it reads (70_reset_and_hazards.md R181). -/
def Obligations.B64eReportsItsFirstFailingCheck : Prop :=
  ∀ s : State,
    (s.idepth.toNat < s.arg0.toNat → exec .b64e s = .next (reported .lengthError s.arg0 s)) ∧
    (∀ k, s.arg0.toNat ≤ s.idepth.toNat → k < s.arg0.toNat → s.ibuf.get k = none →
      (∀ j, j < k → (s.ibuf.get j).isSome) → exec .b64e s = .fault (.unwrittenInput k)) ∧
    (∀ (vs : List Word) (k : Nat) (h : k < vs.length), s.arg0.toNat ≤ s.idepth.toNat →
      vs.length = s.arg0.toNat → Holds s.ibuf vs → 256 ≤ vs[k].toNat →
      (∀ j, ∀ hj : j < k, vs[j].toNat < 256) →
      exec .b64e s = .next (reported .outOfRange (BitVec.ofNat 32 k) s)) ∧
    (∀ vs : List Word, s.arg0.toNat ≤ s.idepth.toNat →
      vs.length = s.arg0.toNat → Holds s.ibuf vs → (∀ v ∈ vs, v.toNat < 256) →
      s.odepth.toNat < textLength vs.length →
      exec .b64e s = .next (reported .lengthError (BitVec.ofNat 32 (min (textLength vs.length) (2 ^ 32 - 1))) s))

/-- 43_codec.md R134, R136 and 41_transcode.md R97: B64D on a text that the scan ends at its length or at its first `=` commits the floor(6m / 8)
whole octets of the m sextets, with PAD = (8 − (6m mod 8)) mod 8, and writes nothing else. What stands after the `=`, written
or not, plays no part. -/
def Obligations.B64dCommitsTheOctets : Prop :=
  ∀ (s : State) (sx : List Word),
    s.arg0.toNat ≤ s.idepth.toNat → TextHolds s.ibuf s.arg0.toNat sx →
    6 * sx.length / 8 ≤ s.odepth.toNat →
    exec .b64d s = .next
      { s with
        obuf := s.obuf.setAll 0 (octetsOf sx), outlen := BitVec.ofNat 32 (6 * sx.length / 8)
        pad := BitVec.ofNat 32 ((8 - 6 * sx.length % 8) % 8), err := .ok, errinfo := 0#32 }

/-- B64D reports the first check that fails, in the order of 60_exceptions.md R160: input too long, the least character
before the first `=` that is in no block, output too long; and it has no successor on an unwritten element that its scan
reaches (70_reset_and_hazards.md R181, 43_codec.md R134; that the scan stops at an unmappable character is the model's reading,
assumption 6). -/
def Obligations.B64dReportsItsFirstFailingCheck : Prop :=
  ∀ s : State,
    (s.idepth.toNat < s.arg0.toNat → exec .b64d s = .next (reported .lengthError s.arg0 s)) ∧
    (∀ sx : List Word, s.arg0.toNat ≤ s.idepth.toNat → sx.length < s.arg0.toNat → (∀ v ∈ sx, v.toNat < 64) →
      Holds s.ibuf (sx.map alphabetChar) → s.ibuf.get sx.length = none →
      exec .b64d s = .fault (.unwrittenInput sx.length)) ∧
    (∀ (sx : List Word) (c : Word), s.arg0.toNat ≤ s.idepth.toNat → sx.length < s.arg0.toNat → (∀ v ∈ sx, v.toNat < 64) →
      Holds s.ibuf (sx.map alphabetChar) → s.ibuf.get sx.length = some c → c ≠ 0x3D#32 →
      (∀ v, v < 64 → c.toNat ≠ alphabetCode v) →
      exec .b64d s = .next (reported .invalidCharacter (BitVec.ofNat 32 sx.length) s)) ∧
    (∀ sx : List Word, s.arg0.toNat ≤ s.idepth.toNat → TextHolds s.ibuf s.arg0.toNat sx →
      s.odepth.toNat < 6 * sx.length / 8 →
      exec .b64d s = .next (reported .lengthError (BitVec.ofNat 32 (min (6 * sx.length / 8) (2 ^ 32 - 1))) s))

/-- 43_codec.md R135: elements after the first `=` are not read. Whatever is written to one of them, B64D does what it did. -/
def Obligations.B64dIgnoresTextAfterPadding : Prop :=
  ∀ (s : State) (m k : Nat) (v : Word), s.ibuf.get m = some 0x3D#32 → m < k →
    (∀ t : State, exec .b64d s = .next t →
      exec .b64d { s with ibuf := s.ibuf.set k v } = .next { t with ibuf := s.ibuf.set k v }) ∧
    (∀ f : Fault, exec .b64d s = .fault f → exec .b64d { s with ibuf := s.ibuf.set k v } = .fault f)

/-- The codec commands neither read nor write the configuration and the configured re-packer (43_codec.md R130): on any
other values of those cells they do the same, and leave those values. -/
def Obligations.CodecIgnoresConfiguration : Prop :=
  ∀ (i : Instr) (s : State) (c : Bool) (iw ow x : BitVec 5) (a : BitVec 31), (i = .b64e ∨ i = .b64d) →
    (∀ t : State, exec i s = .next t →
      exec i { s with cfgv := c, inW := iw, outW := ow, idx := x, acc := a } =
        .next { t with cfgv := c, inW := iw, outW := ow, idx := x, acc := a }) ∧
    (∀ f : Fault, exec i s = .fault f →
      exec i { s with cfgv := c, inW := iw, outW := ow, idx := x, acc := a } = .fault f)

/-- 43_codec.md R137: for every byte sequence whose encoding fits, copying B64E's output to IBUF and running B64D returns
exactly those bytes, whatever else the second state holds. -/
def Obligations.DecodingAnEncodingReturnsTheBytes : Prop :=
  ∀ (s : State) (vs : List Word),
    s.arg0.toNat ≤ s.idepth.toNat → vs.length = s.arg0.toNat → Holds s.ibuf vs →
    (∀ v ∈ vs, v.toNat < 256) → textLength vs.length ≤ s.odepth.toNat →
    ∃ t, exec .b64e s = .next t ∧ t.err = .ok ∧
      ∀ u : State, u.arg0 = t.outlen → t.outlen.toNat ≤ u.idepth.toNat → vs.length ≤ u.odepth.toNat →
        (∀ k, k < t.outlen.toNat → u.ibuf.get k = t.obuf.get k) →
        ∃ w, exec .b64d u = .next w ∧ w.err = .ok ∧ w.outlen.toNat = vs.length ∧ Holds w.obuf vs

/-! ## Host access -/

/-- 20_memory.md R42: a host write to CMD issues its value as a command and stores nothing, a write to ARG0, ARG1 or an IBUF
element below the depth stores, and every other write is ignored. The element reads back, and every other element is as
before. -/
def Obligations.HostWritesStoreOnlyWhereTheMapSays : Prop :=
  ∀ (s : State) (space : Space) (i v : Word) (rest : List Input), s.inputs = .write space i v :: rest →
    (space = .reg → i = 0#32 → step s = issueCommand v { s with inputs := rest }) ∧
    (space = .reg → i = 1#32 → step s = .next { s with inputs := rest, arg0 := v }) ∧
    (space = .reg → i = 2#32 → step s = .next { s with inputs := rest, arg1 := v }) ∧
    (space = .reg → 3 ≤ i.toNat → step s = .next { s with inputs := rest }) ∧
    (space = .ibuf → i.toNat < s.idepth.toNat →
      ∃ m, step s = .next { s with inputs := rest, ibuf := m } ∧ m.get i.toNat = some v ∧
        ∀ k, k ≠ i.toNat → m.get k = s.ibuf.get k) ∧
    (space = .ibuf → s.idepth.toNat ≤ i.toNat → step s = .next { s with inputs := rest }) ∧
    (space = .obuf → step s = .next { s with inputs := rest })

/-- 10_state.md R12 to R19, R31 and 20_memory.md R43: what a host read of each index of REG returns, STATUS as ERR·256 + CFGV
and WIDTHS as OUT_W·256 + IN_W; and the read changes nothing of the block. -/
def Obligations.RegisterReadsFollowTheMap : Prop :=
  ∀ (s : State) (i : Word) (rest : List Input), s.inputs = .read .reg i :: rest →
    ∃ v : Word, step s = .next { s with inputs := rest, events := .read .reg i v :: s.events } ∧
      (i = 0#32 → v = 0#32) ∧ (i = 1#32 → v = s.arg0) ∧ (i = 2#32 → v = s.arg1) ∧
      (i = 3#32 → v.toNat =
        256 * (match s.err with
          | .ok => 0
          | .configurationError => 1
          | .outOfRange => 2
          | .invalidCharacter => 3
          | .notConfigured => 4
          | .lengthError => 5
          | .illegalCommand => 6) + (if s.cfgv then 1 else 0)) ∧
      (i = 4#32 → v.toNat = 256 * s.outW.toNat + s.inW.toNat) ∧
      (i = 5#32 → v = s.result) ∧ (i = 6#32 → v = s.outlen) ∧ (i = 7#32 → v = s.pad) ∧ (i = 8#32 → v = s.errinfo) ∧
      (i = 9#32 → v = s.idepth) ∧ (i = 10#32 → v = s.odepth) ∧ (11 ≤ i.toNat → v = 0#32)

/-- 20_memory.md R43, R44: a host read of IBUF returns the element, 0 at or above the depth, and for an unwritten element the
next draw; a read of OBUF returns the element below OUTLEN and 0 from there on. A read changes nothing of the block. The
statement says nothing about a draw's value, and holds for every value of the counter. -/
def Obligations.BufferReadsReturnTheElement : Prop :=
  ∀ (s : State) (i : Word) (rest : List Input), Inv s →
    (s.inputs = .read .ibuf i :: rest →
      (∀ v, i.toNat < s.idepth.toNat → s.ibuf.get i.toNat = some v →
        step s = .next { s with inputs := rest, events := .read .ibuf i v :: s.events }) ∧
      (i.toNat < s.idepth.toNat → s.ibuf.get i.toNat = none →
        ∃ v, step s = .next { s with inputs := rest, events := .read .ibuf i v :: s.events, draws := s.draws + 1 }) ∧
      (s.idepth.toNat ≤ i.toNat →
        step s = .next { s with inputs := rest, events := .read .ibuf i 0#32 :: s.events })) ∧
    (s.inputs = .read .obuf i :: rest →
      (i.toNat < s.outlen.toNat →
        ∃ v, s.obuf.get i.toNat = some v ∧
          step s = .next { s with inputs := rest, events := .read .obuf i v :: s.events }) ∧
      (s.outlen.toNat ≤ i.toNat →
        step s = .next { s with inputs := rest, events := .read .obuf i 0#32 :: s.events }))

/-- 20_memory.md R44: after a command that ends in error every host read of OBUF returns 0, although the storage is kept. -/
def Obligations.ObufReadsZeroAfterAnError : Prop :=
  ∀ (c : Instr) (s t : State) (i : Word) (rest : List Input), exec c s = .next t → t.err ≠ .ok →
    step { t with inputs := .read .obuf i :: rest } =
      .next { t with inputs := rest, events := .read .obuf i 0#32 :: t.events }

/-- Sub-word accesses are refused, whatever their size, space and index (20_memory.md R50). -/
def Obligations.SubwordAccessIsRefused : Prop :=
  ∀ (s : State) (size : SubwordSize) (space : Space) (i v : Word) (rest : List Input),
    (s.inputs = .subwordWrite size space i v :: rest ∨ s.inputs = .subwordRead size space i :: rest) →
    step s = .refused .subwordAccess

/-! ## Host scripts -/

/-- 30_encoding.md R67: each pseudo-instruction with operands sets its argument registers and then runs its command, and
does nothing else. -/
def Obligations.PseudoInstructionsSetOperandsAndRun : Prop :=
  (∀ (s : State) (iw ow : Word) (rest : List Input), s.inputs = expand (.cfgWith iw ow) ++ rest →
    stepTimes 3 s = exec .cfg { s with inputs := rest, arg0 := iw, arg1 := ow }) ∧
  (∀ (s : State) (n : Word) (rest : List Input),
    (s.inputs = expand (.convWith n) ++ rest → stepTimes 2 s = exec .conv { s with inputs := rest, arg0 := n }) ∧
    (s.inputs = expand (.mapeWith n) ++ rest → stepTimes 2 s = exec .mape { s with inputs := rest, arg0 := n }) ∧
    (s.inputs = expand (.mapdWith n) ++ rest → stepTimes 2 s = exec .mapd { s with inputs := rest, arg0 := n }) ∧
    (s.inputs = expand (.b64eWith n) ++ rest → stepTimes 2 s = exec .b64e { s with inputs := rest, arg0 := n }) ∧
    (s.inputs = expand (.b64dWith n) ++ rest → stepTimes 2 s = exec .b64d { s with inputs := rest, arg0 := n }))

/-- `WRIS <i>, [v0, …, vk]` writes the run to IBUF[i .. i + k] when it lies below the depth, and changes nothing else
(30_encoding.md R67, 20_memory.md R42). -/
def Obligations.WrisWritesTheRun : Prop :=
  ∀ (s : State) (i : Word) (vs : List Word) (rest : List Input),
    s.inputs = expand (.wris i vs) ++ rest → i.toNat + vs.length ≤ s.idepth.toNat →
    ∃ m, stepTimes vs.length s = .next { s with inputs := rest, ibuf := m } ∧
      (∀ j, ∀ h : j < vs.length, m.get (i.toNat + j) = some vs[j]) ∧
      (∀ k, (k < i.toNat ∨ i.toNat + vs.length ≤ k) → m.get k = s.ibuf.get k)
end

