-- ==== Sys2Proof/Laws/State.lean ====
section
/-! SUPPORT. What each named update of the state leaves in each field: one lemma per field and update, so that no later
proof unfolds a record update. -/

namespace Sys2Proof.Machine

variable (s : State)

/-! ### `withInputs` -/

@[simp] theorem State.withInputs_cfgv (rest : List Input) : (s.withInputs rest).cfgv = s.cfgv := rfl
@[simp] theorem State.withInputs_inW (rest : List Input) : (s.withInputs rest).inW = s.inW := rfl
@[simp] theorem State.withInputs_outW (rest : List Input) : (s.withInputs rest).outW = s.outW := rfl
@[simp] theorem State.withInputs_idx (rest : List Input) : (s.withInputs rest).idx = s.idx := rfl
@[simp] theorem State.withInputs_acc (rest : List Input) : (s.withInputs rest).acc = s.acc := rfl
@[simp] theorem State.withInputs_arg0 (rest : List Input) : (s.withInputs rest).arg0 = s.arg0 := rfl
@[simp] theorem State.withInputs_arg1 (rest : List Input) : (s.withInputs rest).arg1 = s.arg1 := rfl
@[simp] theorem State.withInputs_err (rest : List Input) : (s.withInputs rest).err = s.err := rfl
@[simp] theorem State.withInputs_result (rest : List Input) : (s.withInputs rest).result = s.result := rfl
@[simp] theorem State.withInputs_outlen (rest : List Input) : (s.withInputs rest).outlen = s.outlen := rfl
@[simp] theorem State.withInputs_pad (rest : List Input) : (s.withInputs rest).pad = s.pad := rfl
@[simp] theorem State.withInputs_errinfo (rest : List Input) : (s.withInputs rest).errinfo = s.errinfo := rfl
@[simp] theorem State.withInputs_idepth (rest : List Input) : (s.withInputs rest).idepth = s.idepth := rfl
@[simp] theorem State.withInputs_odepth (rest : List Input) : (s.withInputs rest).odepth = s.odepth := rfl
@[simp] theorem State.withInputs_ibuf (rest : List Input) : (s.withInputs rest).ibuf = s.ibuf := rfl
@[simp] theorem State.withInputs_obuf (rest : List Input) : (s.withInputs rest).obuf = s.obuf := rfl
@[simp] theorem State.withInputs_inputs (rest : List Input) : (s.withInputs rest).inputs = rest := rfl
@[simp] theorem State.withInputs_events (rest : List Input) : (s.withInputs rest).events = s.events := rfl
@[simp] theorem State.withInputs_draws (rest : List Input) : (s.withInputs rest).draws = s.draws := rfl

/-! ### `logEvent` -/

@[simp] theorem State.logEvent_cfgv (e : Event) : (s.logEvent e).cfgv = s.cfgv := rfl
@[simp] theorem State.logEvent_inW (e : Event) : (s.logEvent e).inW = s.inW := rfl
@[simp] theorem State.logEvent_outW (e : Event) : (s.logEvent e).outW = s.outW := rfl
@[simp] theorem State.logEvent_idx (e : Event) : (s.logEvent e).idx = s.idx := rfl
@[simp] theorem State.logEvent_acc (e : Event) : (s.logEvent e).acc = s.acc := rfl
@[simp] theorem State.logEvent_arg0 (e : Event) : (s.logEvent e).arg0 = s.arg0 := rfl
@[simp] theorem State.logEvent_arg1 (e : Event) : (s.logEvent e).arg1 = s.arg1 := rfl
@[simp] theorem State.logEvent_err (e : Event) : (s.logEvent e).err = s.err := rfl
@[simp] theorem State.logEvent_result (e : Event) : (s.logEvent e).result = s.result := rfl
@[simp] theorem State.logEvent_outlen (e : Event) : (s.logEvent e).outlen = s.outlen := rfl
@[simp] theorem State.logEvent_pad (e : Event) : (s.logEvent e).pad = s.pad := rfl
@[simp] theorem State.logEvent_errinfo (e : Event) : (s.logEvent e).errinfo = s.errinfo := rfl
@[simp] theorem State.logEvent_idepth (e : Event) : (s.logEvent e).idepth = s.idepth := rfl
@[simp] theorem State.logEvent_odepth (e : Event) : (s.logEvent e).odepth = s.odepth := rfl
@[simp] theorem State.logEvent_ibuf (e : Event) : (s.logEvent e).ibuf = s.ibuf := rfl
@[simp] theorem State.logEvent_obuf (e : Event) : (s.logEvent e).obuf = s.obuf := rfl
@[simp] theorem State.logEvent_inputs (e : Event) : (s.logEvent e).inputs = s.inputs := rfl
@[simp] theorem State.logEvent_events (e : Event) : (s.logEvent e).events = e :: s.events := rfl
@[simp] theorem State.logEvent_draws (e : Event) : (s.logEvent e).draws = s.draws := rfl

/-! ### `setArg0` -/

@[simp] theorem State.setArg0_cfgv (v : Word) : (s.setArg0 v).cfgv = s.cfgv := rfl
@[simp] theorem State.setArg0_inW (v : Word) : (s.setArg0 v).inW = s.inW := rfl
@[simp] theorem State.setArg0_outW (v : Word) : (s.setArg0 v).outW = s.outW := rfl
@[simp] theorem State.setArg0_idx (v : Word) : (s.setArg0 v).idx = s.idx := rfl
@[simp] theorem State.setArg0_acc (v : Word) : (s.setArg0 v).acc = s.acc := rfl
@[simp] theorem State.setArg0_arg0 (v : Word) : (s.setArg0 v).arg0 = v := rfl
@[simp] theorem State.setArg0_arg1 (v : Word) : (s.setArg0 v).arg1 = s.arg1 := rfl
@[simp] theorem State.setArg0_err (v : Word) : (s.setArg0 v).err = s.err := rfl
@[simp] theorem State.setArg0_result (v : Word) : (s.setArg0 v).result = s.result := rfl
@[simp] theorem State.setArg0_outlen (v : Word) : (s.setArg0 v).outlen = s.outlen := rfl
@[simp] theorem State.setArg0_pad (v : Word) : (s.setArg0 v).pad = s.pad := rfl
@[simp] theorem State.setArg0_errinfo (v : Word) : (s.setArg0 v).errinfo = s.errinfo := rfl
@[simp] theorem State.setArg0_idepth (v : Word) : (s.setArg0 v).idepth = s.idepth := rfl
@[simp] theorem State.setArg0_odepth (v : Word) : (s.setArg0 v).odepth = s.odepth := rfl
@[simp] theorem State.setArg0_ibuf (v : Word) : (s.setArg0 v).ibuf = s.ibuf := rfl
@[simp] theorem State.setArg0_obuf (v : Word) : (s.setArg0 v).obuf = s.obuf := rfl
@[simp] theorem State.setArg0_inputs (v : Word) : (s.setArg0 v).inputs = s.inputs := rfl
@[simp] theorem State.setArg0_events (v : Word) : (s.setArg0 v).events = s.events := rfl
@[simp] theorem State.setArg0_draws (v : Word) : (s.setArg0 v).draws = s.draws := rfl

/-! ### `setArg1` -/

@[simp] theorem State.setArg1_cfgv (v : Word) : (s.setArg1 v).cfgv = s.cfgv := rfl
@[simp] theorem State.setArg1_inW (v : Word) : (s.setArg1 v).inW = s.inW := rfl
@[simp] theorem State.setArg1_outW (v : Word) : (s.setArg1 v).outW = s.outW := rfl
@[simp] theorem State.setArg1_idx (v : Word) : (s.setArg1 v).idx = s.idx := rfl
@[simp] theorem State.setArg1_acc (v : Word) : (s.setArg1 v).acc = s.acc := rfl
@[simp] theorem State.setArg1_arg0 (v : Word) : (s.setArg1 v).arg0 = s.arg0 := rfl
@[simp] theorem State.setArg1_arg1 (v : Word) : (s.setArg1 v).arg1 = v := rfl
@[simp] theorem State.setArg1_err (v : Word) : (s.setArg1 v).err = s.err := rfl
@[simp] theorem State.setArg1_result (v : Word) : (s.setArg1 v).result = s.result := rfl
@[simp] theorem State.setArg1_outlen (v : Word) : (s.setArg1 v).outlen = s.outlen := rfl
@[simp] theorem State.setArg1_pad (v : Word) : (s.setArg1 v).pad = s.pad := rfl
@[simp] theorem State.setArg1_errinfo (v : Word) : (s.setArg1 v).errinfo = s.errinfo := rfl
@[simp] theorem State.setArg1_idepth (v : Word) : (s.setArg1 v).idepth = s.idepth := rfl
@[simp] theorem State.setArg1_odepth (v : Word) : (s.setArg1 v).odepth = s.odepth := rfl
@[simp] theorem State.setArg1_ibuf (v : Word) : (s.setArg1 v).ibuf = s.ibuf := rfl
@[simp] theorem State.setArg1_obuf (v : Word) : (s.setArg1 v).obuf = s.obuf := rfl
@[simp] theorem State.setArg1_inputs (v : Word) : (s.setArg1 v).inputs = s.inputs := rfl
@[simp] theorem State.setArg1_events (v : Word) : (s.setArg1 v).events = s.events := rfl
@[simp] theorem State.setArg1_draws (v : Word) : (s.setArg1 v).draws = s.draws := rfl

/-! ### `setIbuf` -/

@[simp] theorem State.setIbuf_cfgv (k : Nat) (v : Word) : (s.setIbuf k v).cfgv = s.cfgv := rfl
@[simp] theorem State.setIbuf_inW (k : Nat) (v : Word) : (s.setIbuf k v).inW = s.inW := rfl
@[simp] theorem State.setIbuf_outW (k : Nat) (v : Word) : (s.setIbuf k v).outW = s.outW := rfl
@[simp] theorem State.setIbuf_idx (k : Nat) (v : Word) : (s.setIbuf k v).idx = s.idx := rfl
@[simp] theorem State.setIbuf_acc (k : Nat) (v : Word) : (s.setIbuf k v).acc = s.acc := rfl
@[simp] theorem State.setIbuf_arg0 (k : Nat) (v : Word) : (s.setIbuf k v).arg0 = s.arg0 := rfl
@[simp] theorem State.setIbuf_arg1 (k : Nat) (v : Word) : (s.setIbuf k v).arg1 = s.arg1 := rfl
@[simp] theorem State.setIbuf_err (k : Nat) (v : Word) : (s.setIbuf k v).err = s.err := rfl
@[simp] theorem State.setIbuf_result (k : Nat) (v : Word) : (s.setIbuf k v).result = s.result := rfl
@[simp] theorem State.setIbuf_outlen (k : Nat) (v : Word) : (s.setIbuf k v).outlen = s.outlen := rfl
@[simp] theorem State.setIbuf_pad (k : Nat) (v : Word) : (s.setIbuf k v).pad = s.pad := rfl
@[simp] theorem State.setIbuf_errinfo (k : Nat) (v : Word) : (s.setIbuf k v).errinfo = s.errinfo := rfl
@[simp] theorem State.setIbuf_idepth (k : Nat) (v : Word) : (s.setIbuf k v).idepth = s.idepth := rfl
@[simp] theorem State.setIbuf_odepth (k : Nat) (v : Word) : (s.setIbuf k v).odepth = s.odepth := rfl
@[simp] theorem State.setIbuf_ibuf (k : Nat) (v : Word) : (s.setIbuf k v).ibuf = s.ibuf.set k v := rfl
@[simp] theorem State.setIbuf_obuf (k : Nat) (v : Word) : (s.setIbuf k v).obuf = s.obuf := rfl
@[simp] theorem State.setIbuf_inputs (k : Nat) (v : Word) : (s.setIbuf k v).inputs = s.inputs := rfl
@[simp] theorem State.setIbuf_events (k : Nat) (v : Word) : (s.setIbuf k v).events = s.events := rfl
@[simp] theorem State.setIbuf_draws (k : Nat) (v : Word) : (s.setIbuf k v).draws = s.draws := rfl

/-! ### `setConfig` -/

@[simp] theorem State.setConfig_cfgv (iw ow : BitVec 5) : (s.setConfig iw ow).cfgv = true := rfl
@[simp] theorem State.setConfig_inW (iw ow : BitVec 5) : (s.setConfig iw ow).inW = iw := rfl
@[simp] theorem State.setConfig_outW (iw ow : BitVec 5) : (s.setConfig iw ow).outW = ow := rfl
@[simp] theorem State.setConfig_idx (iw ow : BitVec 5) : (s.setConfig iw ow).idx = ow - 1#5 := rfl
@[simp] theorem State.setConfig_acc (iw ow : BitVec 5) : (s.setConfig iw ow).acc = 0#31 := rfl
@[simp] theorem State.setConfig_arg0 (iw ow : BitVec 5) : (s.setConfig iw ow).arg0 = s.arg0 := rfl
@[simp] theorem State.setConfig_arg1 (iw ow : BitVec 5) : (s.setConfig iw ow).arg1 = s.arg1 := rfl
@[simp] theorem State.setConfig_err (iw ow : BitVec 5) : (s.setConfig iw ow).err = s.err := rfl
@[simp] theorem State.setConfig_result (iw ow : BitVec 5) : (s.setConfig iw ow).result = s.result := rfl
@[simp] theorem State.setConfig_outlen (iw ow : BitVec 5) : (s.setConfig iw ow).outlen = s.outlen := rfl
@[simp] theorem State.setConfig_pad (iw ow : BitVec 5) : (s.setConfig iw ow).pad = s.pad := rfl
@[simp] theorem State.setConfig_errinfo (iw ow : BitVec 5) : (s.setConfig iw ow).errinfo = s.errinfo := rfl
@[simp] theorem State.setConfig_idepth (iw ow : BitVec 5) : (s.setConfig iw ow).idepth = s.idepth := rfl
@[simp] theorem State.setConfig_odepth (iw ow : BitVec 5) : (s.setConfig iw ow).odepth = s.odepth := rfl
@[simp] theorem State.setConfig_ibuf (iw ow : BitVec 5) : (s.setConfig iw ow).ibuf = s.ibuf := rfl
@[simp] theorem State.setConfig_obuf (iw ow : BitVec 5) : (s.setConfig iw ow).obuf = s.obuf := rfl
@[simp] theorem State.setConfig_inputs (iw ow : BitVec 5) : (s.setConfig iw ow).inputs = s.inputs := rfl
@[simp] theorem State.setConfig_events (iw ow : BitVec 5) : (s.setConfig iw ow).events = s.events := rfl
@[simp] theorem State.setConfig_draws (iw ow : BitVec 5) : (s.setConfig iw ow).draws = s.draws := rfl

/-! ### `dropConfig` -/

@[simp] theorem State.dropConfig_cfgv : s.dropConfig.cfgv = false := rfl
@[simp] theorem State.dropConfig_inW : s.dropConfig.inW = 0#5 := rfl
@[simp] theorem State.dropConfig_outW : s.dropConfig.outW = 0#5 := rfl
@[simp] theorem State.dropConfig_idx : s.dropConfig.idx = 0#5 := rfl
@[simp] theorem State.dropConfig_acc : s.dropConfig.acc = 0#31 := rfl
@[simp] theorem State.dropConfig_arg0 : s.dropConfig.arg0 = s.arg0 := rfl
@[simp] theorem State.dropConfig_arg1 : s.dropConfig.arg1 = s.arg1 := rfl
@[simp] theorem State.dropConfig_err : s.dropConfig.err = s.err := rfl
@[simp] theorem State.dropConfig_result : s.dropConfig.result = s.result := rfl
@[simp] theorem State.dropConfig_outlen : s.dropConfig.outlen = s.outlen := rfl
@[simp] theorem State.dropConfig_pad : s.dropConfig.pad = s.pad := rfl
@[simp] theorem State.dropConfig_errinfo : s.dropConfig.errinfo = s.errinfo := rfl
@[simp] theorem State.dropConfig_idepth : s.dropConfig.idepth = s.idepth := rfl
@[simp] theorem State.dropConfig_odepth : s.dropConfig.odepth = s.odepth := rfl
@[simp] theorem State.dropConfig_ibuf : s.dropConfig.ibuf = s.ibuf := rfl
@[simp] theorem State.dropConfig_obuf : s.dropConfig.obuf = s.obuf := rfl
@[simp] theorem State.dropConfig_inputs : s.dropConfig.inputs = s.inputs := rfl
@[simp] theorem State.dropConfig_events : s.dropConfig.events = s.events := rfl
@[simp] theorem State.dropConfig_draws : s.dropConfig.draws = s.draws := rfl

/-! ### `setCells` -/

@[simp] theorem State.setCells_cfgv (x : BitVec 5) (a : BitVec 31) : (s.setCells x a).cfgv = s.cfgv := rfl
@[simp] theorem State.setCells_inW (x : BitVec 5) (a : BitVec 31) : (s.setCells x a).inW = s.inW := rfl
@[simp] theorem State.setCells_outW (x : BitVec 5) (a : BitVec 31) : (s.setCells x a).outW = s.outW := rfl
@[simp] theorem State.setCells_idx (x : BitVec 5) (a : BitVec 31) : (s.setCells x a).idx = x := rfl
@[simp] theorem State.setCells_acc (x : BitVec 5) (a : BitVec 31) : (s.setCells x a).acc = a := rfl
@[simp] theorem State.setCells_arg0 (x : BitVec 5) (a : BitVec 31) : (s.setCells x a).arg0 = s.arg0 := rfl
@[simp] theorem State.setCells_arg1 (x : BitVec 5) (a : BitVec 31) : (s.setCells x a).arg1 = s.arg1 := rfl
@[simp] theorem State.setCells_err (x : BitVec 5) (a : BitVec 31) : (s.setCells x a).err = s.err := rfl
@[simp] theorem State.setCells_result (x : BitVec 5) (a : BitVec 31) : (s.setCells x a).result = s.result := rfl
@[simp] theorem State.setCells_outlen (x : BitVec 5) (a : BitVec 31) : (s.setCells x a).outlen = s.outlen := rfl
@[simp] theorem State.setCells_pad (x : BitVec 5) (a : BitVec 31) : (s.setCells x a).pad = s.pad := rfl
@[simp] theorem State.setCells_errinfo (x : BitVec 5) (a : BitVec 31) : (s.setCells x a).errinfo = s.errinfo := rfl
@[simp] theorem State.setCells_idepth (x : BitVec 5) (a : BitVec 31) : (s.setCells x a).idepth = s.idepth := rfl
@[simp] theorem State.setCells_odepth (x : BitVec 5) (a : BitVec 31) : (s.setCells x a).odepth = s.odepth := rfl
@[simp] theorem State.setCells_ibuf (x : BitVec 5) (a : BitVec 31) : (s.setCells x a).ibuf = s.ibuf := rfl
@[simp] theorem State.setCells_obuf (x : BitVec 5) (a : BitVec 31) : (s.setCells x a).obuf = s.obuf := rfl
@[simp] theorem State.setCells_inputs (x : BitVec 5) (a : BitVec 31) : (s.setCells x a).inputs = s.inputs := rfl
@[simp] theorem State.setCells_events (x : BitVec 5) (a : BitVec 31) : (s.setCells x a).events = s.events := rfl
@[simp] theorem State.setCells_draws (x : BitVec 5) (a : BitVec 31) : (s.setCells x a).draws = s.draws := rfl

/-! ### `setResult` -/

@[simp] theorem State.setResult_cfgv (v : Word) : (s.setResult v).cfgv = s.cfgv := rfl
@[simp] theorem State.setResult_inW (v : Word) : (s.setResult v).inW = s.inW := rfl
@[simp] theorem State.setResult_outW (v : Word) : (s.setResult v).outW = s.outW := rfl
@[simp] theorem State.setResult_idx (v : Word) : (s.setResult v).idx = s.idx := rfl
@[simp] theorem State.setResult_acc (v : Word) : (s.setResult v).acc = s.acc := rfl
@[simp] theorem State.setResult_arg0 (v : Word) : (s.setResult v).arg0 = s.arg0 := rfl
@[simp] theorem State.setResult_arg1 (v : Word) : (s.setResult v).arg1 = s.arg1 := rfl
@[simp] theorem State.setResult_err (v : Word) : (s.setResult v).err = s.err := rfl
@[simp] theorem State.setResult_result (v : Word) : (s.setResult v).result = v := rfl
@[simp] theorem State.setResult_outlen (v : Word) : (s.setResult v).outlen = s.outlen := rfl
@[simp] theorem State.setResult_pad (v : Word) : (s.setResult v).pad = s.pad := rfl
@[simp] theorem State.setResult_errinfo (v : Word) : (s.setResult v).errinfo = s.errinfo := rfl
@[simp] theorem State.setResult_idepth (v : Word) : (s.setResult v).idepth = s.idepth := rfl
@[simp] theorem State.setResult_odepth (v : Word) : (s.setResult v).odepth = s.odepth := rfl
@[simp] theorem State.setResult_ibuf (v : Word) : (s.setResult v).ibuf = s.ibuf := rfl
@[simp] theorem State.setResult_obuf (v : Word) : (s.setResult v).obuf = s.obuf := rfl
@[simp] theorem State.setResult_inputs (v : Word) : (s.setResult v).inputs = s.inputs := rfl
@[simp] theorem State.setResult_events (v : Word) : (s.setResult v).events = s.events := rfl
@[simp] theorem State.setResult_draws (v : Word) : (s.setResult v).draws = s.draws := rfl

/-! ### `setOutput` -/

@[simp] theorem State.setOutput_cfgv (out : List Word) (length pad : Nat) : (s.setOutput out length pad).cfgv = s.cfgv := rfl
@[simp] theorem State.setOutput_inW (out : List Word) (length pad : Nat) : (s.setOutput out length pad).inW = s.inW := rfl
@[simp] theorem State.setOutput_outW (out : List Word) (length pad : Nat) : (s.setOutput out length pad).outW = s.outW := rfl
@[simp] theorem State.setOutput_idx (out : List Word) (length pad : Nat) : (s.setOutput out length pad).idx = s.idx := rfl
@[simp] theorem State.setOutput_acc (out : List Word) (length pad : Nat) : (s.setOutput out length pad).acc = s.acc := rfl
@[simp] theorem State.setOutput_arg0 (out : List Word) (length pad : Nat) : (s.setOutput out length pad).arg0 = s.arg0 := rfl
@[simp] theorem State.setOutput_arg1 (out : List Word) (length pad : Nat) : (s.setOutput out length pad).arg1 = s.arg1 := rfl
@[simp] theorem State.setOutput_err (out : List Word) (length pad : Nat) : (s.setOutput out length pad).err = s.err := rfl
@[simp] theorem State.setOutput_result (out : List Word) (length pad : Nat) : (s.setOutput out length pad).result = s.result := rfl
@[simp] theorem State.setOutput_outlen (out : List Word) (length pad : Nat) : (s.setOutput out length pad).outlen = BitVec.ofNat 32 length := rfl
@[simp] theorem State.setOutput_pad (out : List Word) (length pad : Nat) : (s.setOutput out length pad).pad = BitVec.ofNat 32 pad := rfl
@[simp] theorem State.setOutput_errinfo (out : List Word) (length pad : Nat) : (s.setOutput out length pad).errinfo = s.errinfo := rfl
@[simp] theorem State.setOutput_idepth (out : List Word) (length pad : Nat) : (s.setOutput out length pad).idepth = s.idepth := rfl
@[simp] theorem State.setOutput_odepth (out : List Word) (length pad : Nat) : (s.setOutput out length pad).odepth = s.odepth := rfl
@[simp] theorem State.setOutput_ibuf (out : List Word) (length pad : Nat) : (s.setOutput out length pad).ibuf = s.ibuf := rfl
@[simp] theorem State.setOutput_obuf (out : List Word) (length pad : Nat) : (s.setOutput out length pad).obuf = s.obuf.setAll 0 out := rfl
@[simp] theorem State.setOutput_inputs (out : List Word) (length pad : Nat) : (s.setOutput out length pad).inputs = s.inputs := rfl
@[simp] theorem State.setOutput_events (out : List Word) (length pad : Nat) : (s.setOutput out length pad).events = s.events := rfl
@[simp] theorem State.setOutput_draws (out : List Word) (length pad : Nat) : (s.setOutput out length pad).draws = s.draws := rfl

/-! ### `setError` -/

@[simp] theorem State.setError_cfgv (e : ErrorCode) (info : Word) : (s.setError e info).cfgv = s.cfgv := rfl
@[simp] theorem State.setError_inW (e : ErrorCode) (info : Word) : (s.setError e info).inW = s.inW := rfl
@[simp] theorem State.setError_outW (e : ErrorCode) (info : Word) : (s.setError e info).outW = s.outW := rfl
@[simp] theorem State.setError_idx (e : ErrorCode) (info : Word) : (s.setError e info).idx = s.idx := rfl
@[simp] theorem State.setError_acc (e : ErrorCode) (info : Word) : (s.setError e info).acc = s.acc := rfl
@[simp] theorem State.setError_arg0 (e : ErrorCode) (info : Word) : (s.setError e info).arg0 = s.arg0 := rfl
@[simp] theorem State.setError_arg1 (e : ErrorCode) (info : Word) : (s.setError e info).arg1 = s.arg1 := rfl
@[simp] theorem State.setError_err (e : ErrorCode) (info : Word) : (s.setError e info).err = e := rfl
@[simp] theorem State.setError_result (e : ErrorCode) (info : Word) : (s.setError e info).result = s.result := rfl
@[simp] theorem State.setError_outlen (e : ErrorCode) (info : Word) : (s.setError e info).outlen = s.outlen := rfl
@[simp] theorem State.setError_pad (e : ErrorCode) (info : Word) : (s.setError e info).pad = s.pad := rfl
@[simp] theorem State.setError_errinfo (e : ErrorCode) (info : Word) : (s.setError e info).errinfo = info := rfl
@[simp] theorem State.setError_idepth (e : ErrorCode) (info : Word) : (s.setError e info).idepth = s.idepth := rfl
@[simp] theorem State.setError_odepth (e : ErrorCode) (info : Word) : (s.setError e info).odepth = s.odepth := rfl
@[simp] theorem State.setError_ibuf (e : ErrorCode) (info : Word) : (s.setError e info).ibuf = s.ibuf := rfl
@[simp] theorem State.setError_obuf (e : ErrorCode) (info : Word) : (s.setError e info).obuf = s.obuf := rfl
@[simp] theorem State.setError_inputs (e : ErrorCode) (info : Word) : (s.setError e info).inputs = s.inputs := rfl
@[simp] theorem State.setError_events (e : ErrorCode) (info : Word) : (s.setError e info).events = s.events := rfl
@[simp] theorem State.setError_draws (e : ErrorCode) (info : Word) : (s.setError e info).draws = s.draws := rfl

/-! ### `clearResults` -/

@[simp] theorem State.clearResults_cfgv : s.clearResults.cfgv = s.cfgv := rfl
@[simp] theorem State.clearResults_inW : s.clearResults.inW = s.inW := rfl
@[simp] theorem State.clearResults_outW : s.clearResults.outW = s.outW := rfl
@[simp] theorem State.clearResults_idx : s.clearResults.idx = s.idx := rfl
@[simp] theorem State.clearResults_acc : s.clearResults.acc = s.acc := rfl
@[simp] theorem State.clearResults_arg0 : s.clearResults.arg0 = s.arg0 := rfl
@[simp] theorem State.clearResults_arg1 : s.clearResults.arg1 = s.arg1 := rfl
@[simp] theorem State.clearResults_err : s.clearResults.err = s.err := rfl
@[simp] theorem State.clearResults_result : s.clearResults.result = 0#32 := rfl
@[simp] theorem State.clearResults_outlen : s.clearResults.outlen = 0#32 := rfl
@[simp] theorem State.clearResults_pad : s.clearResults.pad = 0#32 := rfl
@[simp] theorem State.clearResults_errinfo : s.clearResults.errinfo = s.errinfo := rfl
@[simp] theorem State.clearResults_idepth : s.clearResults.idepth = s.idepth := rfl
@[simp] theorem State.clearResults_odepth : s.clearResults.odepth = s.odepth := rfl
@[simp] theorem State.clearResults_ibuf : s.clearResults.ibuf = s.ibuf := rfl
@[simp] theorem State.clearResults_obuf : s.clearResults.obuf = s.obuf := rfl
@[simp] theorem State.clearResults_inputs : s.clearResults.inputs = s.inputs := rfl
@[simp] theorem State.clearResults_events : s.clearResults.events = s.events := rfl
@[simp] theorem State.clearResults_draws : s.clearResults.draws = s.draws := rfl

/-! ### `setDraws` -/

@[simp] theorem State.setDraws_cfgv (n : Nat) : (s.setDraws n).cfgv = s.cfgv := rfl
@[simp] theorem State.setDraws_inW (n : Nat) : (s.setDraws n).inW = s.inW := rfl
@[simp] theorem State.setDraws_outW (n : Nat) : (s.setDraws n).outW = s.outW := rfl
@[simp] theorem State.setDraws_idx (n : Nat) : (s.setDraws n).idx = s.idx := rfl
@[simp] theorem State.setDraws_acc (n : Nat) : (s.setDraws n).acc = s.acc := rfl
@[simp] theorem State.setDraws_arg0 (n : Nat) : (s.setDraws n).arg0 = s.arg0 := rfl
@[simp] theorem State.setDraws_arg1 (n : Nat) : (s.setDraws n).arg1 = s.arg1 := rfl
@[simp] theorem State.setDraws_err (n : Nat) : (s.setDraws n).err = s.err := rfl
@[simp] theorem State.setDraws_result (n : Nat) : (s.setDraws n).result = s.result := rfl
@[simp] theorem State.setDraws_outlen (n : Nat) : (s.setDraws n).outlen = s.outlen := rfl
@[simp] theorem State.setDraws_pad (n : Nat) : (s.setDraws n).pad = s.pad := rfl
@[simp] theorem State.setDraws_errinfo (n : Nat) : (s.setDraws n).errinfo = s.errinfo := rfl
@[simp] theorem State.setDraws_idepth (n : Nat) : (s.setDraws n).idepth = s.idepth := rfl
@[simp] theorem State.setDraws_odepth (n : Nat) : (s.setDraws n).odepth = s.odepth := rfl
@[simp] theorem State.setDraws_ibuf (n : Nat) : (s.setDraws n).ibuf = s.ibuf := rfl
@[simp] theorem State.setDraws_obuf (n : Nat) : (s.setDraws n).obuf = s.obuf := rfl
@[simp] theorem State.setDraws_inputs (n : Nat) : (s.setDraws n).inputs = s.inputs := rfl
@[simp] theorem State.setDraws_events (n : Nat) : (s.setDraws n).events = s.events := rfl
@[simp] theorem State.setDraws_draws (n : Nat) : (s.setDraws n).draws = n := rfl

/-! ### `successCommit` -/

@[simp] theorem successCommit_cfgv : (successCommit s).cfgv = s.cfgv := rfl
@[simp] theorem successCommit_inW : (successCommit s).inW = s.inW := rfl
@[simp] theorem successCommit_outW : (successCommit s).outW = s.outW := rfl
@[simp] theorem successCommit_idx : (successCommit s).idx = s.idx := rfl
@[simp] theorem successCommit_acc : (successCommit s).acc = s.acc := rfl
@[simp] theorem successCommit_arg0 : (successCommit s).arg0 = s.arg0 := rfl
@[simp] theorem successCommit_arg1 : (successCommit s).arg1 = s.arg1 := rfl
@[simp] theorem successCommit_err : (successCommit s).err = .ok := rfl
@[simp] theorem successCommit_result : (successCommit s).result = s.result := rfl
@[simp] theorem successCommit_outlen : (successCommit s).outlen = s.outlen := rfl
@[simp] theorem successCommit_pad : (successCommit s).pad = s.pad := rfl
@[simp] theorem successCommit_errinfo : (successCommit s).errinfo = 0#32 := rfl
@[simp] theorem successCommit_idepth : (successCommit s).idepth = s.idepth := rfl
@[simp] theorem successCommit_odepth : (successCommit s).odepth = s.odepth := rfl
@[simp] theorem successCommit_ibuf : (successCommit s).ibuf = s.ibuf := rfl
@[simp] theorem successCommit_obuf : (successCommit s).obuf = s.obuf := rfl
@[simp] theorem successCommit_inputs : (successCommit s).inputs = s.inputs := rfl
@[simp] theorem successCommit_events : (successCommit s).events = s.events := rfl
@[simp] theorem successCommit_draws : (successCommit s).draws = s.draws := rfl

end Sys2Proof.Machine
end

