-- ==== Sys2Proof/Laws/Commit.lean ====
section
/-! SUPPORT. How commands end: the checks, the error commit and the three ways `finish` answers, each said once. -/

namespace Sys2Proof.Machine

/-- A sequence of two parts succeeds exactly when both do. -/
theorem bind_eq_ok {α β : Type} {x : Except Stop α} {f : α → Except Stop β} {b : β} :
    (x >>= f) = .ok b ↔ ∃ a, x = .ok a ∧ f a = .ok b := by
  cases x <;> simp [bind, Except.bind]

/-- A sequence of two parts stops exactly when the first does, or the second after it. -/
theorem bind_eq_error {α β : Type} {x : Except Stop α} {f : α → Except Stop β} {e : Stop} :
    (x >>= f) = .error e ↔ x = .error e ∨ ∃ a, x = .ok a ∧ f a = .error e := by
  cases x <;> simp [bind, Except.bind]

theorem require_eq_ok {p : Prop} [Decidable p] {e : ErrorCode} {info : Word} {u : Unit} :
    require p e info = .ok u ↔ p := by
  unfold require
  split <;> simp [*]

theorem require_eq_error {p : Prop} [Decidable p] {e : ErrorCode} {info : Word} {x : Stop} :
    require p e info = .error x ↔ ¬ p ∧ x = .raise e info := by
  unfold require
  split <;> simp [*, eq_comm]

/-- A check that holds drops out of its command. -/
theorem require_bind_of {α : Type} {p : Prop} [Decidable p] (h : p) (e : ErrorCode) (info : Word)
    (f : Unit → Except Stop α) : (require p e info >>= f) = f () := by
  simp [require, h, bind, Except.bind]

/-- A check that fails ends its command with its error. -/
theorem require_bind_of_not {α : Type} {p : Prop} [Decidable p] (h : ¬ p) (e : ErrorCode) (info : Word)
    (f : Unit → Except Stop α) : (require p e info >>= f) = .error (.raise e info) := by
  simp [require, h, bind, Except.bind]

/-- A command goes on exactly to its committed state or to the error commit on the state it began in. -/
theorem finish_eq_next {s t : State} {r : Except Stop State} :
    finish s r = .next t ↔ r = .ok t ∨ ∃ e info, r = .error (.raise e info) ∧ t = errorCommit e info s := by
  unfold finish
  split <;> simp [eq_comm]

theorem finish_eq_fault {s : State} {f : Fault} {r : Except Stop State} :
    finish s r = .fault f ↔ r = .error (.fault f) := by
  unfold finish
  split <;> simp

/-- No command is refused. -/
theorem finish_ne_refused {s : State} {q : Refusal} {r : Except Stop State} : finish s r ≠ .refused q := by
  unfold finish
  split <;> simp

/-- The error commit of an error that keeps the configuration. -/
theorem errorCommit_of_ne {e : ErrorCode} (h : e ≠ .configurationError) (info : Word) (s : State) :
    errorCommit e info s = ((s.setError e info).clearResults).logEvent (.error e info) := by
  simp [errorCommit, h]

/-- The error commit of CONFIGURATION_ERROR. -/
theorem errorCommit_configurationError (info : Word) (s : State) :
    errorCommit .configurationError info s =
      (((s.setError .configurationError info).clearResults).logEvent (.error .configurationError info)).dropConfig := by
  simp [errorCommit]

/-- The error commit reports the error, and enters it in the history, whatever the error. -/
theorem errorCommit_err (e : ErrorCode) (info : Word) (s : State) : (errorCommit e info s).err = e := by
  unfold errorCommit
  split <;> simp

theorem errorCommit_events (e : ErrorCode) (info : Word) (s : State) :
    (errorCommit e info s).events = .error e info :: s.events := by
  unfold errorCommit
  split <;> simp

end Sys2Proof.Machine
end

