-- ==== Sys2Proof/Laws/Alphabet.lean ====
section
/-! SUPPORT. The walks over the ROM, block by block, and what the mapper's two maps answer inside a command. -/

namespace Sys2Proof.Machine

/-- The forward walk over the five blocks, as ranges of the sextet (42_alphabet.md R112). -/
theorem walkForward_alphabetRom (r : Nat) :
    walkForward alphabetRom r =
      if r < 26 then some (0x41 + r)
      else if r < 52 then some (0x61 + (r - 26))
      else if r < 62 then some (0x30 + (r - 52))
      else if r < 63 then some 0x2B
      else if r < 64 then some 0x2F
      else none := by
  simp only [walkForward, alphabetRom]
  grind

/-- The reverse search over the five blocks, as ranges of the code point (42_alphabet.md R114). -/
theorem walkReverse_alphabetRom (c : Nat) :
    walkReverse alphabetRom 0 c =
      if 0x41 ≤ c ∧ c ≤ 0x5A then some (c - 0x41)
      else if 0x61 ≤ c ∧ c ≤ 0x7A then some (26 + (c - 0x61))
      else if 0x30 ≤ c ∧ c ≤ 0x39 then some (52 + (c - 0x30))
      else if c = 0x2B then some 62
      else if c = 0x2F then some 63
      else none := by
  simp only [walkReverse, alphabetRom]
  grind

theorem charOf_eq_ok {v c : Word} : charOf v = .ok c ↔ mapE v = some c := by
  unfold charOf
  split <;> simp [*]

theorem charOf_eq_error {v : Word} {e : Stop} : charOf v = .error e ↔ mapE v = none ∧ e = .raise .outOfRange 0#32 := by
  unfold charOf
  split <;> simp [*, eq_comm]

theorem sextetOf_eq_ok {c info v : Word} : sextetOf c info = .ok v ↔ mapD c = some v := by
  unfold sextetOf
  split <;> simp [*]

theorem sextetOf_eq_error {c info : Word} {e : Stop} :
    sextetOf c info = .error e ↔ mapD c = none ∧ e = .raise .invalidCharacter info := by
  unfold sextetOf
  split <;> simp [*, eq_comm]

end Sys2Proof.Machine
end

