-- ==== Sys2Proof/Laws/Repacker.lean ====
section
/-! SUPPORT. The steps of the datapath: what one bit step can do, how steps over a sequence compose, and what Flush
answers. -/

namespace Sys2Proof.Machine

@[simp] theorem resetForm_idx (ow : Nat) : (resetForm ow).idx = (ow : Int) - 1 := rfl
@[simp] theorem resetForm_acc (ow : Nat) : (resetForm ow).acc = 0 := rfl

@[simp] theorem placeBit_idx (b : Bool) (c : Cells) : (placeBit b c).idx = c.idx - 1 := rfl
@[simp] theorem placeBit_acc (b : Bool) (c : Cells) :
    (placeBit b c).acc = if b then c.acc + 2 ^ c.idx.toNat else c.acc := rfl

/-- A bit step at an index above 0 places its bit and emits nothing. -/
theorem bitStep_of_idx_pos {c : Cells} (h : 0 < c.idx) (ow : Nat) (b : Bool) : bitStep ow b c = (placeBit b c, []) := by
  have : ¬ c.idx - 1 = -1 := by omega
  simp [bitStep, completeValue, this]

/-- A bit step at index 0 completes an output value and leaves the reset form. -/
theorem bitStep_of_idx_zero {c : Cells} (h : c.idx = 0) (ow : Nat) (b : Bool) :
    bitStep ow b c = (resetForm ow, [BitVec.ofNat 32 (placeBit b c).acc]) := by
  simp [bitStep, completeValue, h]

@[simp] theorem bitSteps_nil (ow : Nat) (c : Cells) : bitSteps ow [] c = (c, []) := rfl

theorem bitSteps_cons (ow : Nat) (b : Bool) (bs : List Bool) (c : Cells) :
    bitSteps ow (b :: bs) c =
      ((bitSteps ow bs (bitStep ow b c).1).1, (bitStep ow b c).2 ++ (bitSteps ow bs (bitStep ow b c).1).2) := rfl

/-- Steps over two runs of bits are the steps over the first, then over the second from where it ended. -/
theorem bitSteps_append (ow : Nat) (xs ys : List Bool) (c : Cells) :
    bitSteps ow (xs ++ ys) c =
      ((bitSteps ow ys (bitSteps ow xs c).1).1, (bitSteps ow xs c).2 ++ (bitSteps ow ys (bitSteps ow xs c).1).2) := by
  induction xs generalizing c with
  | nil => simp
  | cons x xs ih => simp [bitSteps_cons, ih]

/-- The steps over a sequence of values are the bit steps over its bit stream (20_memory.md R47). -/
theorem valueSteps_eq_bitSteps (iw ow : Nat) (vs : List Word) (c : Cells) :
    valueSteps iw ow vs c = bitSteps ow (vs.flatMap (valueBits iw)) c := by
  induction vs generalizing c with
  | nil => rfl
  | cons v vs ih => simp [valueSteps, valueStep, bitSteps_append, ih]

@[simp] theorem length_valueBits (iw : Nat) (v : Word) : (valueBits iw v).length = iw := by
  induction iw with
  | zero => rfl
  | succ iw ih => simp [valueBits, ih]

/-- Bit `j` of a value, most significant first, is its bit `iw − 1 − j` (20_memory.md R46). -/
theorem getElem_valueBits (iw : Nat) (v : Word) (j : Nat) (h : j < (valueBits iw v).length) :
    (valueBits iw v)[j] = v.getLsbD (iw - 1 - j) := by
  induction iw generalizing j with
  | zero => simp at h
  | succ iw ih =>
    cases j with
    | zero => simp [valueBits]
    | succ j =>
      have hj : j < (valueBits iw v).length := by simpa [valueBits] using h
      have hlt : j < iw := by simpa using hj
      have he : iw - (j + 1) = iw - 1 - j := by omega
      simp [valueBits, ih j hj, he]

/-- The stream of `n` values holds `n·iw` bits, which is the number of bit steps of a conversion
(70_reset_and_hazards.md R190). -/
theorem length_stream (iw : Nat) (vs : List Word) : (vs.flatMap (valueBits iw)).length = vs.length * iw := by
  induction vs with
  | nil => simp
  | cons v vs ih => simp [ih, Nat.add_mul, Nat.add_comm]

/-- Flush with a partial value in progress emits it. -/
theorem flush_of_partial {ow : Nat} {c : Cells} (h : c.idx ≠ (ow : Int) - 1) (pending : List Word) :
    flush ow pending c = ⟨pending ++ [BitVec.ofNat 32 c.acc], (c.idx + 1).toNat, resetForm ow⟩ := by
  simp [flush, h]

/-- Flush in the reset form appends nothing. -/
theorem flush_of_reset {ow : Nat} {c : Cells} (h : c.idx = (ow : Int) - 1) (pending : List Word) :
    flush ow pending c = ⟨pending, 0, resetForm ow⟩ := by
  simp [flush, h]

/-- Every conversion ends in reset form (10_state.md R22). -/
@[simp] theorem convert_cells (iw ow : Nat) (vs : List Word) : (convert iw ow vs).cells = resetForm ow := by
  simp only [convert, flush]
  split <;> rfl

end Sys2Proof.Machine
end

