-- ==== Sys2Proof/Laws/ClosedForm.lean ====
section
/-! SUPPORT. The small laws of the closed forms that claims are stated with: values of bit fields, bits of a stream, and
the output length. -/

namespace Sys2Proof.Safety

open Sys2Proof.Machine

/-- A field of `width` bits is below `2^width`. -/
theorem fieldValue_lt (f : Nat → Bool) (start width : Nat) : fieldValue f start width < 2 ^ width := by
  induction width with
  | zero => simp [fieldValue]
  | succ w ih =>
    have hb : (f (start + w)).toNat ≤ 1 := Bool.toNat_le _
    simp only [fieldValue, Nat.pow_succ]
    omega

/-- A field of zero bits is 0. -/
theorem fieldValue_of_false {f : Nat → Bool} {start width : Nat} (h : ∀ j, j < width → f (start + j) = false) :
    fieldValue f start width = 0 := by
  induction width with
  | zero => rfl
  | succ w ih => simp [fieldValue, ih (fun j hj => h j (by omega)), h w (by omega)]

/-- A field splits into its upper part and its lower part. -/
theorem fieldValue_add (f : Nat → Bool) (start p q : Nat) :
    fieldValue f start (p + q) = fieldValue f start p * 2 ^ q + fieldValue f (start + p) q := by
  induction q with
  | zero => simp [fieldValue]
  | succ q ih =>
    rw [← Nat.add_assoc]
    simp only [fieldValue, ih, Nat.pow_succ, Nat.add_assoc]
    ring

/-- Bit `j` of a field, counted from its most significant, is bit `j` of what it was taken from. -/
theorem testBit_fieldValue (f : Nat → Bool) (start width j : Nat) (h : j < width) :
    (fieldValue f start width).testBit (width - 1 - j) = f (start + j) := by
  induction width generalizing j with
  | zero => omega
  | succ w ih =>
    simp only [fieldValue]
    by_cases hj : j = w
    · subst hj
      simp only [Nat.add_sub_cancel, Nat.sub_self, Nat.testBit_zero]
      cases f (start + j) <;> simp
    · have hw : w + 1 - 1 - j = (w - 1 - j) + 1 := by omega
      rw [hw, Nat.testBit_succ, ← ih j (by omega)]
      congr 1
      cases f (start + w) <;> simp
      omega

/-- Past the last value the stream is 0. -/
theorem streamBit_beyond {iw : Nat} {vs : List Word} {j : Nat} (h : vs.length * iw ≤ j) (hi : 0 < iw) :
    streamBit iw vs j = false := by
  have hk : vs.length ≤ j / iw := by
    rw [Nat.le_div_iff_mul_le hi]
    exact h
  simp [streamBit, hk]

/-- Within value `k` the stream runs through its bits, most significant first (20_memory.md R47). -/
theorem streamBit_within {iw : Nat} {vs : List Word} {k j : Nat} (h : k < vs.length) (hj : j < iw) :
    streamBit iw vs (k * iw + j) = vs[k].getLsbD (iw - 1 - j) := by
  have hd : (k * iw + j) / iw = k := by
    rw [Nat.add_comm, Nat.add_mul_div_right _ _ (by omega), Nat.div_eq_of_lt hj]
    omega
  have hm : (k * iw + j) % iw = j := by
    rw [Nat.add_comm, Nat.add_mul_mod_self_right, Nat.mod_eq_of_lt hj]
  simp [streamBit, hd, hm, h]

/-- The output length counts the full output values, and one more for a partial one. -/
theorem outputLength_eq {ow : Nat} (h : 0 < ow) (iw n : Nat) :
    outputLength iw ow n = n * iw / ow + (if n * iw % ow = 0 then 0 else 1) := by
  unfold outputLength
  generalize n * iw = t
  have h1 := Nat.div_add_mod t ow
  have h2 := Nat.mod_lt t h
  split
  · have e : t + ow - 1 = (ow - 1) + ow * (t / ow) := by omega
    rw [e, Nat.add_mul_div_left _ _ h, Nat.div_eq_of_lt (by omega)]
    omega
  · have e : t + ow - 1 = (t % ow - 1) + ow * (t / ow + 1) := by
      rw [Nat.mul_succ]
      omega
    rw [e, Nat.add_mul_div_left _ _ h, Nat.div_eq_of_lt (by omega)]
    omega

@[simp] theorem length_repacked (iw ow : Nat) (vs : List Word) :
    (repacked iw ow vs).length = outputLength iw ow vs.length := by
  simp [repacked]

end Sys2Proof.Safety
end

