-- ==== Sys2Proof/Laws/Codec.lean ====
section
/-! SUPPORT. The mapping of a whole sequence, and the scan of a text element by element. -/

namespace Sys2Proof.Machine

/-- A sequence maps exactly when each of its sextets does. -/
theorem charsOf_eq_ok {xs cs : List Word} : charsOf xs = .ok cs ↔ xs.map mapE = cs.map some := by
  induction xs generalizing cs with
  | nil =>
    simp only [charsOf, Except.ok.injEq, List.map_nil]
    cases cs <;> simp
  | cons x xs ih =>
    simp only [charsOf, bind_eq_ok, charOf_eq_ok, pure, Except.pure, Except.ok.injEq]
    cases cs with
    | nil => simp
    | cons c cs => simp [ih]

/-- The scan of no elements is empty. -/
@[simp] theorem scanText_zero (m : Memory) (k : Nat) : scanText m k 0 = .ok [] := rfl

/-- The scan faults on an unwritten element it reads. -/
theorem scanText_unwritten {m : Memory} {k : Nat} (h : m.get k = none) (n : Nat) :
    scanText m k (n + 1) = .error (.fault (.unwrittenInput k)) := by
  simp [scanText, h]

/-- The scan ends at a padding character. -/
theorem scanText_padChar {m : Memory} {k : Nat} (h : m.get k = some padChar) (n : Nat) : scanText m k (n + 1) = .ok [] := by
  simp [scanText, h]

/-- Any other character is mapped, and the scan goes on only if it is in the alphabet. -/
theorem scanText_char {m : Memory} {k : Nat} {c : Word} (h : m.get k = some c) (hc : c ≠ padChar) (n : Nat) :
    scanText m k (n + 1) = (do
      let v ← sextetOf c (BitVec.ofNat 32 k)
      let vs ← scanText m (k + 1) n
      return v :: vs) := by
  simp [scanText, h, hc]

/-- A scan that faults does so at the first element that is unwritten, and every element before it is a character of the
alphabet, so not the padding character. -/
theorem scanText_eq_fault {m : Memory} {k n : Nat} {f : Fault} (h : scanText m k n = .error (.fault f)) :
    ∃ j, j < n ∧ f = .unwrittenInput (k + j) ∧ m.get (k + j) = none ∧
      ∀ i, i < j → ∃ c, m.get (k + i) = some c ∧ c ≠ padChar ∧ (mapD c).isSome := by
  induction n generalizing k with
  | zero => simp at h
  | succ n ih =>
    cases hc : m.get k with
    | none =>
      rw [scanText_unwritten hc] at h
      cases h
      exact ⟨0, by omega, rfl, hc, fun i hi => absurd hi (by omega)⟩
    | some c =>
      by_cases hp : c = padChar
      · rw [scanText_padChar (hp ▸ hc)] at h
        cases h
      · rw [scanText_char hc hp] at h
        cases hv : mapD c with
        | none => simp [sextetOf, hv, bind, Except.bind] at h
        | some v =>
          cases hs : scanText m (k + 1) n with
          | ok vs => simp [sextetOf, hv, hs, bind, Except.bind, pure, Except.pure] at h
          | error e =>
            simp only [sextetOf, hv, hs, bind, Except.bind, Except.error.injEq] at h
            obtain ⟨j, hj, rfl, hn, hall⟩ := ih (h ▸ hs)
            refine ⟨j + 1, by omega, by congr 1; omega, by rw [← hn]; congr 1; omega, fun i hi => ?_⟩
            cases i with
            | zero => exact ⟨c, hc, hp, by simp [hv]⟩
            | succ i =>
              obtain ⟨d, hd, hrest⟩ := hall i (by omega)
              exact ⟨d, by rw [← hd]; congr 1; omega, hrest⟩

end Sys2Proof.Machine
end

