-- ==== Sys2Proof/Laws/HostAccess.lean ====
section
/-! SUPPORT. The register map read both ways, and a step as the performance of the oldest operation. -/

namespace Sys2Proof.Machine

/-- Every register stands at its own index (10_state.md R12). -/
@[simp] theorem regAt_regIndex (r : RegName) : regAt (regIndex r) = some r := by
  cases r <;> rfl

/-- The reserved indices are those from 11 up (10_state.md R31). -/
theorem regAt_eq_none {i : Word} : regAt i = none ↔ 11 ≤ i.toNat := by
  unfold regAt
  split <;> simp_all
  omega

theorem step_of_inputs_nil {s : State} (h : s.inputs = []) : step s = .next s := by
  simp [step, nextInput, h]

/-- A step performs the oldest operation, on the state whose queue no longer holds it. -/
theorem step_of_inputs_cons {s : State} {x : Input} {rest : List Input} (h : s.inputs = x :: rest) :
    step s = perform x (s.withInputs rest) := by
  simp [step, nextInput, h]

/-- A write to CMD issues its value as a command word (10_state.md R13). -/
theorem perform_write_cmd (w : Word) (s : State) : perform (.write .reg 0#32 w) s = issueCommand w s := rfl

/-- All that a host write can do: issue a command, store to an argument register or to an element of IBUF below its depth,
or nothing (20_memory.md R42). -/
theorem hostWrite_cases (space : Space) (i v : Word) (s : State) :
    (space = .reg ∧ regAt i = some .cmd ∧ hostWrite space i v s = issueCommand v s) ∨
    (space = .reg ∧ regAt i = some .arg0 ∧ hostWrite space i v s = .next (s.setArg0 v)) ∨
    (space = .reg ∧ regAt i = some .arg1 ∧ hostWrite space i v s = .next (s.setArg1 v)) ∨
    (space = .ibuf ∧ i.toNat < s.idepth.toNat ∧ hostWrite space i v s = .next (s.setIbuf i.toNat v)) ∨
    hostWrite space i v s = .next s := by
  unfold hostWrite
  split
  · split <;> simp_all
  · split <;> simp_all
  · simp

/-- All that a host read can do: one entry in the history, and one more draw if the location is unspecified
(20_memory.md R43). -/
theorem hostRead_cases (space : Space) (i : Word) (s : State) :
    (∃ v, hostValue space i s = some v ∧ hostRead space i s = s.logEvent (.read space i v)) ∨
    (hostValue space i s = none ∧
      hostRead space i s = (s.logEvent (.read space i (Config.freeWord s.draws))).setDraws (s.draws + 1)) := by
  unfold hostRead
  split <;> simp_all

/-- An operation is refused only when it is ill formed (20_memory.md R50), or a command is. -/
theorem perform_subword {x : Input} (h : x.wf = false) (s : State) : perform x s = .refused .subwordAccess := by
  cases x <;> first | rfl | simp [Input.wf] at h

end Sys2Proof.Machine
end

