-- ==== Sys2Proof/Laws/Memory.lean ====
section
/-! SUPPORT. The laws of a buffer's elements: a read after a write, every other element unchanged, and the canonical form
kept by every operation. -/

namespace Sys2Proof.Machine

@[simp] theorem Memory.get_nil (k : Nat) : Memory.get [] k = none := rfl

theorem Memory.get_cons (j : Nat) (x : Word) (m : Memory) (k : Nat) :
    Memory.get ((j, x) :: m) k = if j = k then some x else Memory.get m k := rfl

/-- A read after a write to the same element gives the value written. -/
@[simp] theorem Memory.get_set_same (m : Memory) (k : Nat) (v : Word) : (m.set k v).get k = some v := by
  induction m with
  | nil => simp [Memory.set, Memory.get]
  | cons p m ih =>
    obtain ⟨j, x⟩ := p
    simp only [Memory.set]
    split
    · simp [Memory.get_cons]
    · split
      · simp [Memory.get_cons]
      · rename_i h
        simp [Memory.get_cons, Ne.symm h, ih]

/-- A write leaves every other element alone. -/
theorem Memory.get_set_other (m : Memory) {k l : Nat} (v : Word) (h : l ≠ k) : (m.set k v).get l = m.get l := by
  induction m with
  | nil => simp [Memory.set, Memory.get, Ne.symm h]
  | cons p m ih =>
    obtain ⟨j, x⟩ := p
    simp only [Memory.set]
    split
    · simp [Memory.get_cons, Ne.symm h]
    · split
      · rename_i hkj
        subst hkj
        simp [Memory.get_cons, Ne.symm h]
      · simp [Memory.get_cons, ih]

theorem Memory.get_set (m : Memory) (k l : Nat) (v : Word) :
    (m.set k v).get l = if l = k then some v else m.get l := by
  split
  · rename_i h; subst h; simp
  · rename_i h; exact Memory.get_set_other m v h

/-- Writing a run touches no element below it. -/
theorem Memory.get_setAll_below (vs : List Word) (m : Memory) {k l : Nat} (h : l < k) :
    (m.setAll k vs).get l = m.get l := by
  induction vs generalizing m k with
  | nil => rfl
  | cons v vs ih =>
    simp only [Memory.setAll]
    rw [ih _ (by omega), Memory.get_set_other _ _ (by omega)]

/-- Writing a run touches no element at or beyond its end. -/
theorem Memory.get_setAll_beyond (vs : List Word) (m : Memory) {k l : Nat} (h : k + vs.length ≤ l) :
    (m.setAll k vs).get l = m.get l := by
  induction vs generalizing m k with
  | nil => rfl
  | cons v vs ih =>
    simp only [List.length_cons] at h
    simp only [Memory.setAll]
    rw [ih _ (by omega), Memory.get_set_other _ _ (by omega)]

/-- A run's elements read back in order. -/
theorem Memory.get_setAll_at (vs : List Word) (m : Memory) (k j : Nat) (h : j < vs.length) :
    (m.setAll k vs).get (k + j) = some vs[j] := by
  induction vs generalizing m k j with
  | nil => simp at h
  | cons v vs ih =>
    simp only [Memory.setAll]
    cases j with
    | zero => simp [Memory.get_setAll_below]
    | succ j =>
      have hj : k + (j + 1) = (k + 1) + j := by omega
      simp only [List.length_cons] at h
      rw [hj, ih _ _ _ (by omega)]
      simp

/-- Nothing is listed after a write that was not listed before, but the element written. -/
theorem Memory.mem_set {m : Memory} {k : Nat} {v : Word} {p : Nat × Word} (h : p ∈ m.set k v) :
    p = (k, v) ∨ p ∈ m := by
  induction m with
  | nil => simpa [Memory.set] using h
  | cons q m ih =>
    obtain ⟨j, x⟩ := q
    simp only [Memory.set] at h
    split at h
    · simpa using h
    · split at h
      · rcases List.mem_cons.mp h with h | h
        · exact .inl h
        · exact .inr (List.mem_cons_of_mem _ h)
      · rcases List.mem_cons.mp h with h | h
        · exact .inr (h ▸ List.mem_cons_self)
        · exact (ih h).imp id (List.mem_cons_of_mem _)

theorem Memory.wf_nil : Memory.Wf [] := List.Pairwise.nil

/-- Both buffers are in canonical form after reset, with nothing listed. -/
theorem reset_buffers_wf : State.reset.ibuf.Wf ∧ State.reset.obuf.Wf := ⟨Memory.wf_nil, Memory.wf_nil⟩

/-- A write keeps the canonical form. -/
theorem Memory.wf_set {m : Memory} (h : m.Wf) (k : Nat) (v : Word) : (m.set k v).Wf := by
  induction m with
  | nil => simp [Memory.set, Memory.Wf]
  | cons p m ih =>
    obtain ⟨j, x⟩ := p
    obtain ⟨hj, hm⟩ := List.pairwise_cons.mp h
    simp only [Memory.set]
    split
    · rename_i hk
      refine List.pairwise_cons.mpr ⟨fun q hq => ?_, h⟩
      rcases List.mem_cons.mp hq with rfl | hq
      · exact hk
      · exact Nat.lt_trans hk (hj q hq)
    · split
      · rename_i hk
        subst hk
        exact List.pairwise_cons.mpr ⟨hj, hm⟩
      · refine List.pairwise_cons.mpr ⟨fun q hq => ?_, ih hm⟩
        rcases Memory.mem_set hq with rfl | hq
        · show j < k
          omega
        · exact hj q hq

/-- Writing a run keeps the canonical form. -/
theorem Memory.wf_setAll {m : Memory} (h : m.Wf) (k : Nat) (vs : List Word) : (m.setAll k vs).Wf := by
  induction vs generalizing m k with
  | nil => exact h
  | cons v vs ih => exact ih (Memory.wf_set h k v) (k + 1)

/-- A run below a bound lists nothing at or above it that was not listed before. -/
theorem Memory.bounded_setAll {m : Memory} {d : Nat} (h : ∀ p ∈ m, p.1 < d) (k : Nat) (vs : List Word)
    (hk : k + vs.length ≤ d) : ∀ p ∈ m.setAll k vs, p.1 < d := by
  induction vs generalizing m k with
  | nil => exact h
  | cons v vs ih =>
    simp only [List.length_cons] at hk
    refine ih (fun p hp => ?_) (k + 1) (by omega)
    rcases Memory.mem_set hp with rfl | hp
    · show k < d
      omega
    · exact h p hp

end Sys2Proof.Machine
end

