-- ==== Sys2Proof/Laws/Operands.lean ====
section
/-! SUPPORT. What reading the input elements and checking their range can answer, each said once. -/

namespace Sys2Proof.Machine

/-- Reading gives exactly the elements listed, in index order. -/
theorem readElements_eq_ok {m : Memory} {k n : Nat} {vs : List Word} :
    readElements m k n = .ok vs ↔ vs.length = n ∧ ∀ j, ∀ h : j < vs.length, m.get (k + j) = some vs[j] := by
  induction n generalizing k vs with
  | zero =>
    simp only [readElements]
    constructor
    · rintro ⟨⟩; simp
    · rintro ⟨h, -⟩; rw [List.length_eq_zero_iff.mp h]
  | succ n ih =>
    simp only [readElements]
    constructor
    · intro h
      split at h
      · cases h
      · rename_i v hv
        split at h
        · rename_i ws hws
          cases h
          obtain ⟨hl, hg⟩ := ih.mp hws
          refine ⟨by simp [hl], fun j hj => ?_⟩
          cases j with
          | zero => simpa using hv
          | succ j =>
            have := hg j (by simpa using hj)
            simpa [Nat.add_assoc, Nat.add_comm 1] using this
        · cases h
    · rintro ⟨hl, hg⟩
      cases vs with
      | nil => simp at hl
      | cons v ws =>
        have h0 := hg 0 (by simp)
        simp only [Nat.add_zero, List.getElem_cons_zero] at h0
        have hws : readElements m (k + 1) n = .ok ws :=
          ih.mpr ⟨by simpa using hl, fun j hj => by
            have := hg (j + 1) (by simpa using hj)
            simpa [Nat.add_assoc, Nat.add_comm 1] using this⟩
        simp [h0, hws]

/-- Reading stops only on an unwritten element, the least one. -/
theorem readElements_eq_error {m : Memory} {k n : Nat} {e : Stop} :
    readElements m k n = .error e ↔
      ∃ j, j < n ∧ e = .fault (.unwrittenInput (k + j)) ∧ m.get (k + j) = none ∧
        ∀ i, i < j → (m.get (k + i)).isSome := by
  induction n generalizing k with
  | zero => simp [readElements]
  | succ n ih =>
    simp only [readElements]
    cases hv : m.get k with
    | none =>
      constructor
      · rintro ⟨⟩
        exact ⟨0, by omega, rfl, hv, by simp⟩
      · rintro ⟨j, -, rfl, -, hi⟩
        cases j with
        | zero => rfl
        | succ j => simpa [hv] using hi 0 (by omega)
    | some v =>
      have key : (match readElements m (k + 1) n with
          | .ok vs => Except.ok (v :: vs)
          | .error e => .error e) = .error e ↔ readElements m (k + 1) n = .error e := by
        split <;> simp [*]
      refine key.trans (ih.trans ⟨?_, ?_⟩)
      · rintro ⟨j, hj, rfl, hn, hi⟩
        have hkj : k + 1 + j = k + (j + 1) := by omega
        refine ⟨j + 1, by omega, by rw [hkj], by rw [← hkj]; exact hn, fun i hlt => ?_⟩
        cases i with
        | zero => simp [hv]
        | succ i =>
          have := hi i (by omega)
          rwa [show k + 1 + i = k + (i + 1) by omega] at this
      · rintro ⟨j, hj, rfl, hn, hi⟩
        cases j with
        | zero => simp [hv] at hn
        | succ j =>
          have hkj : k + 1 + j = k + (j + 1) := by omega
          refine ⟨j, by omega, by rw [hkj], by rw [hkj]; exact hn, fun i hlt => ?_⟩
          have := hi (i + 1) (by omega)
          rwa [show k + 1 + i = k + (i + 1) by omega]

/-- No value is too large exactly when all lie below `2^iw`. -/
theorem firstTooLarge_eq_none {iw k : Nat} {vs : List Word} :
    firstTooLarge iw k vs = none ↔ ∀ v ∈ vs, v.toNat < 2 ^ iw := by
  induction vs generalizing k with
  | nil => simp [firstTooLarge]
  | cons v vs ih =>
    simp only [firstTooLarge]
    split
    · simp [Nat.not_lt.mpr ‹_›]
    · rw [ih]
      simp [Nat.not_le.mp ‹_›]

/-- What is reported is the least index of a value at or above `2^iw`. -/
theorem firstTooLarge_eq_some {iw k l : Nat} {vs : List Word} :
    firstTooLarge iw k vs = some l ↔
      ∃ j, ∃ h : j < vs.length, l = k + j ∧ 2 ^ iw ≤ vs[j].toNat ∧
        ∀ i, ∀ hi : i < j, vs[i].toNat < 2 ^ iw := by
  induction vs generalizing k with
  | nil => simp [firstTooLarge]
  | cons v vs ih =>
    simp only [firstTooLarge]
    split
    · rename_i hv
      constructor
      · rintro ⟨⟩
        exact ⟨0, by simp, rfl, by simpa using hv, by simp⟩
      · rintro ⟨j, hj, rfl, -, hi⟩
        cases j with
        | zero => rfl
        | succ j =>
          have := hi 0 (by omega)
          simp at this
          omega
    · rename_i hv
      rw [ih]
      constructor
      · rintro ⟨j, hj, rfl, hb, hi⟩
        refine ⟨j + 1, by simpa using hj, by omega, by simpa using hb, fun i hlt => ?_⟩
        cases i with
        | zero => simpa using hv
        | succ i => simpa using hi i (by omega)
      · rintro ⟨j, hj, rfl, hb, hi⟩
        cases j with
        | zero => simp at hb; omega
        | succ j =>
          refine ⟨j, by simpa using hj, by omega, by simpa using hb, fun i hlt => ?_⟩
          simpa using hi (i + 1) (by omega)

theorem requireInRange_eq_ok {iw : Nat} {vs : List Word} {u : Unit} :
    requireInRange iw vs = .ok u ↔ ∀ v ∈ vs, v.toNat < 2 ^ iw := by
  rw [← firstTooLarge_eq_none (k := 0)]
  unfold requireInRange
  split <;> simp [*]

end Sys2Proof.Machine
end

