-- ==== Sys2Proof/Laws/PerInstr.lean ====
section
/-! SUPPORT. What holds of every command as syntax, one lemma per constructor. -/

namespace Sys2Proof.Laws.ReservedFieldClear

/-- The command word of a well-formed command has RSV = 0 and its opcode in OP (30_encoding.md R60). -/
def Statement (i : Instr) : Prop := i.wf = true ∧ fieldRsv (encode i) = 0#28 ∧ fieldOp (encode i) = opcode i

theorem cfg : Statement .cfg := by simp only [Statement]; decide
theorem inv : Statement .inv := by simp only [Statement]; decide
theorem conv : Statement .conv := by simp only [Statement]; decide
theorem mape : Statement .mape := by simp only [Statement]; decide
theorem mapd : Statement .mapd := by simp only [Statement]; decide
theorem b64e : Statement .b64e := by simp only [Statement]; decide
theorem b64d : Statement .b64d := by simp only [Statement]; decide

end Sys2Proof.Laws.ReservedFieldClear
end

