-- ==== Sys2Proof/Tests/Slice0.lean ====
section
/-! SUPPORT. Tests of the model: decoding of words written out bit by bit, the well-formedness smoke, vectors of
95_test_vectors.md (its row names stand in the comments), and for every statement a witness that meets its hypotheses. -/

namespace Sys2Proof.Tests

open Sys2Proof.Machine Sys2Proof.Safety

/-! ## Small states -/

/-- Whether a result is a next state with a property. -/
def leads (r : Result) (p : State → Bool) : Bool :=
  match r with
  | .next t => p t
  | .fault _ => false
  | .refused _ => false

/-- Whether a result is the fault at an unwritten element. -/
def faultsAt (r : Result) (k : Nat) : Bool :=
  match r with
  | .next _ => false
  | .fault f => f == .unwrittenInput k
  | .refused _ => false

/-- A block right after reset, with operands and the first elements of IBUF written. -/
def fresh (depth : Word) (a0 a1 : Word) (vs : List Word) : State :=
  { State.resetWith depth depth with arg0 := a0, arg1 := a1, ibuf := Memory.setAll [] 0 vs }

/-- The same block after a successful CFG. -/
def configured (depth : Word) (iw ow : BitVec 5) (n : Word) (vs : List Word) : State :=
  { fresh depth n 0#32 vs with cfgv := true, inW := iw, outW := ow, idx := ow - 1#5 }

/-- The elements of OBUF the host can read. -/
def output (t : State) : List (Option Word) := (List.range t.outlen.toNat).map t.obuf.get

/-! ## Decoding -/

theorem test_decode_cfg : decode 0b00000000000000000000000000000001#32 = .ok .cfg := rfl
theorem test_decode_inv : decode 0b00000000000000000000000000000010#32 = .ok .inv := rfl
theorem test_decode_conv : decode 0b00000000000000000000000000000011#32 = .ok .conv := rfl
theorem test_decode_mape : decode 0b00000000000000000000000000000100#32 = .ok .mape := rfl
theorem test_decode_mapd : decode 0b00000000000000000000000000000101#32 = .ok .mapd := rfl
theorem test_decode_b64e : decode 0b00000000000000000000000000000110#32 = .ok .b64e := rfl
theorem test_decode_b64d : decode 0b00000000000000000000000000000111#32 = .ok .b64d := rfl

/-- 95_test_vectors.md d1, d2, d3 and d4. -/
theorem test_decode_refused :
    decode 0x00000000#32 = .error (.reservedOpcode 0x00000000#32) ∧
    decode 0x00000008#32 = .error (.reservedOpcode 0x00000008#32) ∧
    decode 0x0000000F#32 = .error (.reservedOpcode 0x0000000F#32) ∧
    decode 0x00000013#32 = .error (.reservedBits 0x00000013#32) ∧
    decode 0x80000001#32 = .error (.reservedBits 0x80000001#32) := ⟨rfl, rfl, rfl, rfl, rfl⟩

/-! ## Well-formedness smoke: an ill-formed term for each check -/

theorem test_wf_byte_write : (Input.subwordWrite .byte .ibuf 0#32 7#32).wf = false := rfl
theorem test_wf_half_read : (Input.subwordRead .half .reg 3#32).wf = false := rfl
theorem test_wf_text_not_ascii : (ScriptLine.wrisText 0#32 ['A', 'é']).wf = false := by decide
theorem test_wf_run_too_long : (ScriptLine.wris 0xFFFFFFFF#32 [1#32, 2#32]).wf = false := by decide
theorem test_wf_text_too_long : (ScriptLine.wrisText 0xFFFFFFFF#32 ['A', 'B']).wf = false := by decide

/-! ## Vectors of 95_test_vectors.md -/

/-- c1: CFG 8, 6. -/
theorem test_cfg_8_6 :
    leads (exec .cfg (fresh 64#32 8#32 6#32 [])) (fun t => widthsWord t == 0x608#32 && t.idx == 5#5 && statusWord t == 1#32) =
      true := by decide

/-- c9: CFG 0x108, 6 is 264, not 8. -/
theorem test_cfg_264 :
    leads (exec .cfg (fresh 64#32 0x108#32 6#32 [])) (fun t => statusWord t == 0x100#32 && t.errinfo == 1#32) = true := by
  decide

/-- c2: INV after CFG 8, 6. -/
theorem test_inv :
    leads (exec .inv (configured 64#32 8#5 6#5 0#32 [])) (fun t => widthsWord t == 0x806#32 && t.idx == 7#5) = true := by
  decide

/-- c4: INV after reset. -/
theorem test_inv_unconfigured : leads (exec .inv State.reset) (fun t => statusWord t == 0x400#32) = true := by decide

/-- t1: 3→5 of [5, 3, 7]. -/
theorem test_conv_3_5 :
    leads (exec .conv (configured 64#32 3#5 5#5 3#32 [5#32, 3#32, 7#32]))
      (fun t => output t == [some 21#32, some 30#32] && t.pad == 1#32 && t.idx == 4#5) = true := by decide

/-- t7: zero data still yields its values. -/
theorem test_conv_zero :
    leads (exec .conv (configured 64#32 5#5 3#5 1#32 [0#32]))
      (fun t => output t == [some 0#32, some 0#32] && t.pad == 1#32) = true := by decide

/-- t28: 31→1 of one value needs 31 elements. -/
theorem test_conv_output_length :
    leads (exec .conv (configured 4#32 31#5 1#5 1#32 [0x40000001#32]))
      (fun t => statusWord t == 0x501#32 && t.errinfo == 31#32 && t.outlen == 0#32) = true := by decide

/-- m2 and m10: MAPE 17 and MAPE 64. -/
theorem test_mape :
    leads (exec .mape (fresh 64#32 17#32 0#32 [])) (fun t => t.result == 0x52#32) = true ∧
    leads (exec .mape (fresh 64#32 64#32 0#32 [])) (fun t => statusWord t == 0x200#32 && t.errinfo == 0#32) = true := by
  decide

/-- m16, m18 and m20: MAPD 0x2F, `=` and 0x141. -/
theorem test_mapd :
    leads (exec .mapd (fresh 64#32 0x2F#32 0#32 [])) (fun t => t.result == 63#32) = true ∧
    leads (exec .mapd (fresh 64#32 0x3D#32 0#32 [])) (fun t => statusWord t == 0x300#32) = true ∧
    leads (exec .mapd (fresh 64#32 0x141#32 0#32 [])) (fun t => statusWord t == 0x300#32) = true := by decide

/-- k1: "TQ==". -/
theorem test_b64e :
    leads (exec .b64e (fresh 64#32 1#32 0#32 [0x4D#32]))
      (fun t => output t == [some 0x54#32, some 0x51#32, some 0x3D#32, some 0x3D#32] && t.pad == 4#32) = true := by decide

set_option maxRecDepth 4000 in
/-- k8 and k27: the output does not fit, and the unwritten input. -/
theorem test_b64e_stops :
    leads (exec .b64e (fresh 4#32 4#32 0#32 [1#32, 2#32, 3#32, 4#32])) (fun t => t.errinfo == 8#32) = true ∧
    faultsAt (exec .b64e (fresh 4#32 1#32 0#32 [])) 0 = true := by decide

set_option maxRecDepth 4000 in
/-- k17: "QUJDA". -/
theorem test_b64d :
    leads (exec .b64d (fresh 64#32 5#32 0#32 [0x51#32, 0x55#32, 0x4A#32, 0x44#32, 0x41#32]))
      (fun t => output t == [some 0x41#32, some 0x42#32, some 0x43#32] && t.pad == 2#32) = true := by decide

/-- k14, k22 and k26: text after `=`, an invalid character, unwritten elements after `=`. -/
theorem test_b64d_scan :
    leads (exec .b64d (fresh 64#32 4#32 0#32 [0x51#32, 0x51#32, 0x3D#32, 0x2A#32]))
      (fun t => output t == [some 0x41#32] && t.pad == 4#32) = true ∧
    leads (exec .b64d (fresh 64#32 4#32 0#32 [0x51#32, 0x2A#32, 0x3D#32, 0x3D#32]))
      (fun t => statusWord t == 0x300#32 && t.errinfo == 1#32) = true ∧
    leads (exec .b64d (fresh 64#32 4#32 0#32 [0x51#32, 0x3D#32])) (fun t => t.pad == 2#32 && t.outlen == 0#32) = true := by
  decide

/-- d3: the word 0x13 through a step. -/
theorem test_illegal_word :
    leads (step (State.reset.withFetchWord 32 0x13)) (fun t => statusWord t == 0x600#32 && t.errinfo == 0x13#32) = true := by
  decide

/-- h4: an IBUF write at the depth is ignored and reads 0. -/
theorem test_ibuf_at_depth :
    leads (hostWrite .ibuf 4#32 9#32 (fresh 4#32 0#32 0#32 [])) (fun t => hostValue .ibuf 4#32 t == some 0#32 && t.ibuf == []) =
      true := by decide

/-- How a script ended, told apart from the state it left. -/
def endsAt (o : ScriptOutcome) (line : Option ScriptLine) (failed : Bool) : Bool :=
  match o with
  | .done _ => line == none
  | .checkFailed l _ => line == some l && failed
  | .illFormed l _ => line == some l && !failed
  | .fault _ => false
  | .refused _ => false

/-- The failing check of a script ends it (30_encoding.md R67). -/
theorem test_script_check :
    endsAt (runScript [.mapeWith 17#32, .check .result 0x52#32] State.reset) none true = true ∧
    endsAt (runScript [.mapeWith 17#32, .check .result 0x53#32] State.reset) (some (.check .result 0x53#32)) true = true := by
  decide

/-- A text that is not ASCII is no line of a script (30_encoding.md R67). -/
theorem test_script_ill_formed :
    endsAt (runScript [.mapeWith 17#32, .wrisText 0#32 ['é']] State.reset) (some (.wrisText 0#32 ['é'])) false = true := by
  decide

/-! ## Witnesses: for every statement with hypotheses, states and operands that meet them -/

theorem fresh_inv : Inv (fresh 4#32 0#32 0#32 []) :=
  ⟨by decide, by decide, by decide, by decide, by decide, by decide, by decide, by decide, by decide, by decide,
    ⟨by decide, by decide⟩, ⟨by decide, by decide⟩⟩

theorem configured_inv : Inv (configured 4#32 8#5 6#5 1#32 [0x4D#32]) :=
  ⟨by decide, by decide, by decide, by decide, by decide, by decide, by decide, by decide, by decide, by decide,
    ⟨by decide, by decide⟩, ⟨by decide, by decide⟩⟩

/-- The state after CONV on it: two elements of OBUF are readable. -/
def converted : State :=
  { configured 4#32 8#5 6#5 1#32 [0x4D#32] with obuf := [(0, 19#32), (1, 16#32)], outlen := 2#32, pad := 4#32 }

theorem converted_inv : Inv converted :=
  ⟨by decide, by decide, by decide, by decide, by decide, by decide, by decide, by decide, by decide, by decide,
    ⟨by decide, by decide⟩, ⟨by decide, by decide⟩⟩

/-- A state with one operation to come. -/
def facing (x : Input) (s : State) : State := s.withInputs [x]

theorem witness_IllegalWordsOnlyReportThemselves :
    ((facing (.write .reg 0#32 0x10#32) State.reset).inputs = .write .reg 0#32 0x10#32 :: [] ∧ (0x10#32).toNat / 16 ≠ 0) ∧
    ((facing (.write .reg 0#32 0#32) State.reset).inputs = .write .reg 0#32 0#32 :: [] ∧ (0#32).toNat % 16 = 0) ∧
    ((facing (.write .reg 0#32 8#32) State.reset).inputs = .write .reg 0#32 8#32 :: [] ∧ 8 ≤ (8#32).toNat % 16) := by decide

theorem witness_StepRunsDecodedCommand :
    (facing (.write .reg 0#32 7#32) State.reset).inputs = .write .reg 0#32 7#32 :: [] ∧ decode 7#32 = .ok .b64d ∧
    decodeTableWord 32 1 = some .cfg := ⟨rfl, rfl, rfl⟩

theorem witness_WaitsWithoutInput : State.reset.inputs = [] := rfl

/-- Each command word that can fault, at an element behind a written one, and both sub-word accesses. -/
theorem witness_StepsStopOnlyWhereTheSpecSays :
    step (facing (.write .reg 0#32 3#32) (configured 4#32 8#5 6#5 2#32 [0x4D#32])) = .fault (.unwrittenInput 1) ∧
    step (facing (.write .reg 0#32 6#32) (fresh 4#32 1#32 0#32 [])) = .fault (.unwrittenInput 0) ∧
    step (facing (.write .reg 0#32 7#32) (fresh 4#32 4#32 0#32 [0x51#32, 0x2F#32, 0x41#32])) = .fault (.unwrittenInput 3) ∧
    step (facing (.subwordWrite .half .reg 1#32 7#32) State.reset) = .refused .subwordAccess ∧
    step (facing (.subwordRead .byte .ibuf 0#32) State.reset) = .refused .subwordAccess := ⟨rfl, rfl, rfl, rfl, rfl⟩

theorem witness_ResetSetsEveryCell : (facing .reset converted).inputs = .reset :: [] := rfl

theorem witness_InvariantHoldsAtReset : (1#32 : Word) ≠ 0#32 ∧ (0xFFFFFFFF#32 : Word) ≠ 0#32 := by decide

theorem witness_StepKeepsInvariant :
    Inv (converted.withInputs [.write .ibuf 3#32 5#32]) ∧
    ∃ t, step (converted.withInputs [.write .ibuf 3#32 5#32]) = .next t :=
  ⟨⟨by decide, by decide, by decide, by decide, by decide, by decide, by decide, by decide, by decide, by decide,
    ⟨by decide, by decide⟩, ⟨by decide, by decide⟩⟩, _, rfl⟩

theorem witness_AccumulatorIsClearBelowIndex :
    (1 ≤ 1 ∧ 1 ≤ 31) ∧ (1 ≤ 31 ∧ 31 ≤ 31) ∧ (bitSteps 31 [true] (resetForm 31)).1.acc ≠ 0 := by decide

theorem witness_CommandsInErrorMakeExactlyTheErrorCommit :
    (∃ t, exec .inv State.reset = .next t ∧ t.err ≠ .ok ∧ t.err ≠ .configurationError) ∧
    (∃ t, exec .cfg State.reset = .next t ∧ t.err ≠ .ok ∧ t.err = .configurationError) ∧
    decode 0xFFFFFFFF#32 = .error (.reservedBits 0xFFFFFFFF#32) :=
  ⟨⟨_, rfl, by decide, by decide⟩, ⟨_, rfl, by decide, by decide⟩, rfl⟩

theorem witness_CommandsLeaveOperandsAndInput :
    (∃ t, exec .conv (configured 4#32 8#5 6#5 1#32 [0x4D#32]) = .next t ∧ t.err = .ok) ∧
    (∃ t, exec .conv State.reset = .next t ∧ t.err ≠ .ok) := ⟨⟨_, rfl, by decide⟩, ⟨_, rfl, by decide⟩⟩

theorem witness_SuccessfulCommandsWriteOnlyTheirResults :
    (∃ t, exec .cfg (fresh 4#32 1#32 31#32 []) = .next t ∧ t.err = .ok) ∧
    (∃ t, exec .inv converted = .next t ∧ t.err = .ok) ∧
    (∃ t, exec .mape (fresh 4#32 63#32 0#32 []) = .next t ∧ t.err = .ok) ∧
    (∃ t, exec .mapd (fresh 4#32 0x2F#32 0#32 []) = .next t ∧ t.err = .ok) ∧
    (∃ t, exec .conv converted = .next t ∧ t.err = .ok) ∧
    (∃ t, exec .b64e converted = .next t ∧ t.err = .ok) ∧
    (∃ t, exec .b64d converted = .next t ∧ t.err = .ok) :=
  ⟨⟨_, rfl, by decide⟩, ⟨_, rfl, by decide⟩, ⟨_, rfl, by decide⟩, ⟨_, rfl, by decide⟩, ⟨_, rfl, by decide⟩,
    ⟨_, rfl, by decide⟩, ⟨_, rfl, by decide⟩⟩

theorem witness_OutputCommandsStoreOnlyBelowOutlen :
    (Inv converted ∧ ∃ t, exec .b64e converted = .next t ∧ t.err = .ok ∧ 0 < t.outlen.toNat ∧ t.outlen.toNat ≤ 4) ∧
    (Inv (fresh 4#32 0#32 0#32 []) ∧ ∃ t, exec .conv (fresh 4#32 0#32 0#32 []) = .next t ∧ t.err ≠ .ok) ∧
    (∃ t, exec .conv converted = .next t ∧ t.err = .ok) ∧ (∃ t, exec .b64d converted = .next t ∧ t.err = .ok) :=
  ⟨⟨converted_inv, _, rfl, by decide, by decide, by decide⟩, ⟨fresh_inv, _, rfl, by decide⟩, ⟨_, rfl, by decide⟩,
    ⟨_, rfl, by decide⟩⟩

theorem witness_ErrorCodesEachCommandCanRaise :
    (∃ t, exec .cfg State.reset = .next t ∧ t.err ≠ .ok) ∧ (∃ t, exec .inv State.reset = .next t ∧ t.err ≠ .ok) ∧
    (∃ t, exec .conv State.reset = .next t ∧ t.err ≠ .ok) ∧
    (∃ t, exec .mape (fresh 4#32 64#32 0#32 []) = .next t ∧ t.err ≠ .ok) ∧
    (∃ t, exec .mapd (fresh 4#32 0x3D#32 0#32 []) = .next t ∧ t.err ≠ .ok) ∧
    (∃ t, exec .b64e (fresh 4#32 5#32 0#32 []) = .next t ∧ t.err ≠ .ok) ∧
    (∃ t, exec .b64d (fresh 4#32 5#32 0#32 []) = .next t ∧ t.err ≠ .ok) :=
  ⟨⟨_, rfl, by decide⟩, ⟨_, rfl, by decide⟩, ⟨_, rfl, by decide⟩, ⟨_, rfl, by decide⟩, ⟨_, rfl, by decide⟩,
    ⟨_, rfl, by decide⟩, ⟨_, rfl, by decide⟩⟩

/-- The four clauses, at the ends of [1, 31]. -/
theorem witness_CfgConstructsOrLeavesNoInstance :
    (1 ≤ (fresh 4#32 1#32 31#32 []).arg0.toNat ∧ (fresh 4#32 1#32 31#32 []).arg0.toNat ≤ 31 ∧
      1 ≤ (fresh 4#32 1#32 31#32 []).arg1.toNat ∧ (fresh 4#32 1#32 31#32 []).arg1.toNat ≤ 31) ∧
    (¬ (1 ≤ (fresh 4#32 0#32 31#32 []).arg0.toNat ∧ (fresh 4#32 0#32 31#32 []).arg0.toNat ≤ 31) ∧
      1 ≤ (fresh 4#32 0#32 31#32 []).arg1.toNat ∧ (fresh 4#32 0#32 31#32 []).arg1.toNat ≤ 31) ∧
    (1 ≤ (fresh 4#32 31#32 32#32 []).arg0.toNat ∧ (fresh 4#32 31#32 32#32 []).arg0.toNat ≤ 31 ∧
      ¬ (1 ≤ (fresh 4#32 31#32 32#32 []).arg1.toNat ∧ (fresh 4#32 31#32 32#32 []).arg1.toNat ≤ 31)) ∧
    (¬ (1 ≤ (fresh 4#32 32#32 0#32 []).arg0.toNat ∧ (fresh 4#32 32#32 0#32 []).arg0.toNat ≤ 31) ∧
      ¬ (1 ≤ (fresh 4#32 32#32 0#32 []).arg1.toNat ∧ (fresh 4#32 32#32 0#32 []).arg1.toNat ≤ 31)) := by decide

theorem witness_InvSwapsWidthsOrReportsNotConfigured :
    (Inv converted ∧ converted.cfgv = true) ∧
    (Inv (fresh 4#32 0#32 0#32 []) ∧ (fresh 4#32 0#32 0#32 []).cfgv = false) := ⟨⟨converted_inv, rfl⟩, ⟨fresh_inv, rfl⟩⟩

theorem witness_InvIsAnInvolution :
    (Inv converted ∧ converted.cfgv = true) ∧ (1 ≤ (1#32 : Word).toNat ∧ (1#32 : Word).toNat ≤ 31) ∧
    (1 ≤ (31#32 : Word).toNat ∧ (31#32 : Word).toNat ≤ 31) := ⟨⟨converted_inv, rfl⟩, by decide, by decide⟩

/-- Widths at the ends of [1, 31] with the largest values, for the four statements about the conversion. -/
theorem witness_ConversionMatchesClosedForm :
    (1 ≤ 1 ∧ 1 ≤ 31 ∧ 1 ≤ 31 ∧ 31 ≤ 31 ∧ ∀ v ∈ [1#32, 0#32], v.toNat < 2 ^ 1) ∧
    (1 ≤ 31 ∧ 31 ≤ 31 ∧ 1 ≤ 1 ∧ 1 ≤ 31 ∧ ∀ v ∈ [0x7FFFFFFF#32], v.toNat < 2 ^ 31) := by simp

theorem witness_ConversionLengthAndPadding :
    (1 ≤ 8 ∧ 8 ≤ 31 ∧ 1 ≤ 6 ∧ 6 ≤ 31 ∧ [0x4D#32].length * 8 % 6 ≠ 0) ∧
    (1 ≤ 31 ∧ 31 ≤ 31 ∧ 1 ≤ 1 ∧ 1 ≤ 31 ∧ [0x4D#32].length * 31 % 1 = 0) := by decide

theorem witness_InverseConversionReturnsTheInput :
    1 ≤ 1 ∧ 1 ≤ 31 ∧ 1 ≤ 31 ∧ 31 ≤ 31 ∧ (∀ v ∈ [1#32], v.toNat < 2 ^ 1) ∧ (convert 1 31 [1#32]).pad = 30 := ⟨by decide, by decide, by decide, by decide, by simp, rfl⟩

theorem witness_EqualWidthsConvertToThemselves :
    1 ≤ 31 ∧ 31 ≤ 31 ∧ ∀ v ∈ [0x7FFFFFFF#32, 0#32], v.toNat < 2 ^ 31 := by simp

/-- IBUF holds a sequence; stated for the lists below. -/
theorem holds_one (x : Word) : Holds [(0, x)] [x] := fun k h => by
  have hk : k = 0 := by simpa using h
  subst hk
  rfl

theorem witness_ConvCommitsTheConversion :
    Inv converted ∧ converted.cfgv = true ∧ converted.arg0.toNat ≤ converted.idepth.toNat ∧
    [0x4D#32].length = converted.arg0.toNat ∧ Holds converted.ibuf [0x4D#32] ∧
    (∀ v ∈ [0x4D#32], v.toNat < 2 ^ converted.inW.toNat) ∧
    outputLength converted.inW.toNat converted.outW.toNat [0x4D#32].length ≤ converted.odepth.toNat :=
  ⟨converted_inv, rfl, by decide, by decide, holds_one _, by simp [show converted.inW = 8#5 from rfl], by decide⟩

/-- For the clauses of CONV's checks: an element of 2^8, and a block whose OBUF holds one element. -/
def tooLarge : State := configured 4#32 8#5 6#5 1#32 [0x100#32]

def shortOutput : State := { configured 4#32 8#5 6#5 1#32 [0x4D#32] with odepth := 1#32 }

theorem tooLarge_inv : Inv tooLarge :=
  ⟨by decide, by decide, by decide, by decide, by decide, by decide, by decide, by decide, by decide, by decide,
    ⟨by decide, by decide⟩, ⟨by decide, by decide⟩⟩

theorem shortOutput_inv : Inv shortOutput :=
  ⟨by decide, by decide, by decide, by decide, by decide, by decide, by decide, by decide, by decide, by decide,
    ⟨by decide, by decide⟩, ⟨by decide, by decide⟩⟩

theorem unwritten_inv_four : Inv (configured 4#32 8#5 6#5 4#32 []) :=
  ⟨by decide, by decide, by decide, by decide, by decide, by decide, by decide, by decide, by decide, by decide,
    ⟨by decide, by decide⟩, ⟨by decide, by decide⟩⟩

theorem unwritten_inv_five : Inv (configured 4#32 8#5 6#5 5#32 []) :=
  ⟨by decide, by decide, by decide, by decide, by decide, by decide, by decide, by decide, by decide, by decide,
    ⟨by decide, by decide⟩, ⟨by decide, by decide⟩⟩

theorem witness_ConvReportsItsFirstFailingCheck :
    (Inv (fresh 4#32 0#32 0#32 []) ∧ (fresh 4#32 0#32 0#32 []).cfgv = false) ∧
    (Inv (configured 4#32 8#5 6#5 5#32 []) ∧ (configured 4#32 8#5 6#5 5#32 []).cfgv = true ∧
      (configured 4#32 8#5 6#5 5#32 []).idepth.toNat < (configured 4#32 8#5 6#5 5#32 []).arg0.toNat) ∧
    (Inv (configured 4#32 8#5 6#5 4#32 []) ∧ (configured 4#32 8#5 6#5 4#32 []).cfgv = true ∧
      (configured 4#32 8#5 6#5 4#32 []).arg0.toNat ≤ (configured 4#32 8#5 6#5 4#32 []).idepth.toNat ∧
      0 < (configured 4#32 8#5 6#5 4#32 []).arg0.toNat ∧ (configured 4#32 8#5 6#5 4#32 []).ibuf.get 0 = none) ∧
    (Inv tooLarge ∧ tooLarge.cfgv = true ∧ tooLarge.arg0.toNat ≤ tooLarge.idepth.toNat ∧
      [0x100#32].length = tooLarge.arg0.toNat ∧ Holds tooLarge.ibuf [0x100#32] ∧
      2 ^ tooLarge.inW.toNat ≤ (0x100#32 : Word).toNat) ∧
    (Inv shortOutput ∧ shortOutput.cfgv = true ∧ shortOutput.arg0.toNat ≤ shortOutput.idepth.toNat ∧
      [0x4D#32].length = shortOutput.arg0.toNat ∧ Holds shortOutput.ibuf [0x4D#32] ∧
      (∀ v ∈ [0x4D#32], v.toNat < 2 ^ shortOutput.inW.toNat) ∧
      shortOutput.odepth.toNat < outputLength shortOutput.inW.toNat shortOutput.outW.toNat [0x4D#32].length) :=
  ⟨⟨fresh_inv, rfl⟩, ⟨unwritten_inv_five, rfl, by decide⟩, ⟨unwritten_inv_four, rfl, by decide, by decide, rfl⟩,
    ⟨tooLarge_inv, rfl, by decide, by decide, holds_one _, by decide⟩,
    ⟨shortOutput_inv, rfl, by decide, by decide, holds_one _, by simp [show shortOutput.inW = 8#5 from rfl], by decide⟩⟩

theorem witness_ConvDependsOnlyOnItsOperands :
    Inv (configured 4#32 8#5 6#5 1#32 [0x4D#32]) ∧ Inv converted ∧
    (converted.cfgv, converted.inW, converted.outW, converted.arg0, converted.idepth, converted.odepth) =
      (true, 8#5, 6#5, 1#32, 4#32, 4#32) ∧
    (∀ k, k < 1 → converted.ibuf.get k = (configured 4#32 8#5 6#5 1#32 [0x4D#32]).ibuf.get k) ∧
    ∃ t, exec .conv (configured 4#32 8#5 6#5 1#32 [0x4D#32]) = .next t ∧ 0 < t.outlen.toNat :=
  ⟨configured_inv, converted_inv, rfl, fun _ _ => rfl, _, rfl, by decide⟩

theorem witness_MapeGivesTheAlphabetCharacter :
    (fresh 4#32 63#32 0#32 []).arg0.toNat < 64 ∧ 64 ≤ (fresh 4#32 64#32 0#32 []).arg0.toNat := by decide

theorem witness_MapdGivesTheSextet :
    (63 < 64 ∧ (fresh 4#32 0x2F#32 0#32 []).arg0.toNat = alphabetCode 63) ∧
    (∀ v, v < 64 → (fresh 4#32 0x2E#32 0#32 []).arg0.toNat ≠ alphabetCode v) := by decide

theorem witness_MapperMapsAreInverse : (63#32 : Word).toNat < 64 ∧ mapD 0x2F#32 = some 63#32 := by decide

theorem witness_B64eCommitsTheText :
    converted.arg0.toNat ≤ converted.idepth.toNat ∧ [0x4D#32].length = converted.arg0.toNat ∧
    Holds converted.ibuf [0x4D#32] ∧ (∀ v ∈ [0x4D#32], v.toNat < 256) ∧
    textLength [0x4D#32].length ≤ converted.odepth.toNat := ⟨by decide, by decide, holds_one _, by simp, by decide⟩

theorem witness_EncodedTextLengthAndPadding :
    ∃ t, exec .b64e (fresh 4#32 1#32 0#32 [0xFF#32]) = .next t ∧ t.err = .ok ∧ t.outlen.toNat = 4 :=
  ⟨_, rfl, by decide, by decide⟩

theorem witness_B64eReportsItsFirstFailingCheck :
    ((fresh 4#32 5#32 0#32 []).idepth.toNat < (fresh 4#32 5#32 0#32 []).arg0.toNat) ∧
    ((fresh 4#32 4#32 0#32 []).arg0.toNat ≤ (fresh 4#32 4#32 0#32 []).idepth.toNat ∧
      0 < (fresh 4#32 4#32 0#32 []).arg0.toNat ∧ (fresh 4#32 4#32 0#32 []).ibuf.get 0 = none) ∧
    (tooLarge.arg0.toNat ≤ tooLarge.idepth.toNat ∧ [0x100#32].length = tooLarge.arg0.toNat ∧
      Holds tooLarge.ibuf [0x100#32] ∧ 256 ≤ (0x100#32 : Word).toNat) ∧
    (shortOutput.arg0.toNat ≤ shortOutput.idepth.toNat ∧ [0x4D#32].length = shortOutput.arg0.toNat ∧
      Holds shortOutput.ibuf [0x4D#32] ∧ (∀ v ∈ [0x4D#32], v.toNat < 256) ∧
      shortOutput.odepth.toNat < textLength [0x4D#32].length) :=
  ⟨by decide, by decide, ⟨by decide, by decide, holds_one _, by decide⟩,
    ⟨by decide, by decide, holds_one _, by simp, by decide⟩⟩

/-- The text of one sextet 16, ended by `=` before the length 2. -/
def textState : State := fresh 4#32 2#32 0#32 [0x51#32, 0x3D#32]

theorem textState_holds : TextHolds textState.ibuf textState.arg0.toNat [16#32] :=
  ⟨by simp, fun k h => by
    have hk : k = 0 := by simpa using h
    subst hk
    rfl, .inr ⟨by decide, rfl⟩⟩

theorem witness_B64dCommitsTheOctets :
    textState.arg0.toNat ≤ textState.idepth.toNat ∧ TextHolds textState.ibuf textState.arg0.toNat [16#32] ∧
    6 * [16#32].length / 8 ≤ textState.odepth.toNat := ⟨by decide, textState_holds, by decide⟩

/-- Three characters `/`, of two octets, and an OBUF of one element. -/
def threeChars : State := { fresh 4#32 3#32 0#32 [0x2F#32, 0x2F#32, 0x2F#32] with odepth := 1#32 }

theorem threeChars_holds : TextHolds threeChars.ibuf threeChars.arg0.toNat [63#32, 63#32, 63#32] :=
  ⟨by simp, fun k h => by
    have hk : k < 3 := by simpa using h
    match k, hk with
    | 0, _ => rfl
    | 1, _ => rfl
    | 2, _ => rfl, .inl (by decide)⟩

theorem holds_nil (m : Memory) : Holds m [] := fun _ h => absurd h (by simp)

theorem witness_B64dReportsItsFirstFailingCheck :
    ((fresh 4#32 5#32 0#32 []).idepth.toNat < (fresh 4#32 5#32 0#32 []).arg0.toNat) ∧
    ((fresh 4#32 4#32 0#32 []).arg0.toNat ≤ (fresh 4#32 4#32 0#32 []).idepth.toNat ∧
      ([] : List Word).length < (fresh 4#32 4#32 0#32 []).arg0.toNat ∧
      Holds (fresh 4#32 4#32 0#32 []).ibuf (([] : List Word).map alphabetChar) ∧
      (fresh 4#32 4#32 0#32 []).ibuf.get ([] : List Word).length = none) ∧
    ((fresh 4#32 4#32 0#32 [0x2A#32]).arg0.toNat ≤ (fresh 4#32 4#32 0#32 [0x2A#32]).idepth.toNat ∧
      ([] : List Word).length < (fresh 4#32 4#32 0#32 [0x2A#32]).arg0.toNat ∧
      Holds (fresh 4#32 4#32 0#32 [0x2A#32]).ibuf (([] : List Word).map alphabetChar) ∧
      (fresh 4#32 4#32 0#32 [0x2A#32]).ibuf.get ([] : List Word).length = some 0x2A#32 ∧
      (0x2A#32 : Word) ≠ 0x3D#32 ∧ ∀ v, v < 64 → (0x2A#32 : Word).toNat ≠ alphabetCode v) ∧
    (threeChars.arg0.toNat ≤ threeChars.idepth.toNat ∧ TextHolds threeChars.ibuf threeChars.arg0.toNat [63#32, 63#32, 63#32] ∧
      threeChars.odepth.toNat < 6 * [63#32, 63#32, 63#32].length / 8) :=
  ⟨by decide, ⟨by decide, by decide, holds_nil _, by decide⟩,
    ⟨by decide, by decide, holds_nil _, by decide, by decide, by decide⟩, ⟨by decide, threeChars_holds, by decide⟩⟩

theorem witness_B64dIgnoresTextAfterPadding :
    textState.ibuf.get 1 = some 0x3D#32 ∧ 1 < 2 ∧ (∃ t, exec .b64d textState = .next t ∧ t.err = .ok) ∧
    (fresh 4#32 2#32 0#32 [0x51#32]).ibuf.get 1 = none ∧
    ∃ s : State, s.ibuf.get 1 = some 0x3D#32 ∧ exec .b64d s = .fault (.unwrittenInput 0) :=
  ⟨rfl, by decide, ⟨_, rfl, by decide⟩, rfl, { fresh 4#32 2#32 0#32 [] with ibuf := [(1, 0x3D#32)] }, rfl, rfl⟩

theorem witness_CodecIgnoresConfiguration :
    (∃ t, exec .b64e converted = .next t ∧ t.err = .ok) ∧
    (∃ t, exec .b64d (fresh 4#32 5#32 0#32 []) = .next t ∧ t.err ≠ .ok) ∧
    exec .b64e (fresh 4#32 1#32 0#32 []) = .fault (.unwrittenInput 0) :=
  ⟨⟨_, rfl, by decide⟩, ⟨_, rfl, by decide⟩, rfl⟩

/-- A second block to which the text "TQ==" of the first has been copied. -/
def copied : State := fresh 4#32 4#32 0#32 [0x54#32, 0x51#32, 0x3D#32, 0x3D#32]

theorem witness_DecodingAnEncodingReturnsTheBytes :
    converted.arg0.toNat ≤ converted.idepth.toNat ∧ [0x4D#32].length = converted.arg0.toNat ∧
    Holds converted.ibuf [0x4D#32] ∧ (∀ v ∈ [0x4D#32], v.toNat < 256) ∧
    textLength [0x4D#32].length ≤ converted.odepth.toNat ∧
    ∃ t, exec .b64e converted = .next t ∧ copied.arg0 = t.outlen ∧ t.outlen.toNat ≤ copied.idepth.toNat ∧
      [0x4D#32].length ≤ copied.odepth.toNat ∧ ∀ k, k < t.outlen.toNat → copied.ibuf.get k = t.obuf.get k :=
  ⟨by decide, by decide, holds_one _, by simp, by decide, _, rfl, by decide, by decide, by decide, by decide⟩

theorem witness_HostWritesStoreOnlyWhereTheMapSays :
    ((facing (.write .reg 0#32 7#32) converted).inputs = .write .reg 0#32 7#32 :: []) ∧
    ((facing (.write .reg 1#32 7#32) converted).inputs = .write .reg 1#32 7#32 :: []) ∧
    ((facing (.write .reg 2#32 7#32) converted).inputs = .write .reg 2#32 7#32 :: []) ∧
    ((facing (.write .reg 3#32 7#32) converted).inputs = .write .reg 3#32 7#32 :: [] ∧ 3 ≤ (3#32 : Word).toNat) ∧
    ((facing (.write .ibuf 3#32 7#32) converted).inputs = .write .ibuf 3#32 7#32 :: [] ∧
      (3#32 : Word).toNat < (facing (.write .ibuf 3#32 7#32) converted).idepth.toNat) ∧
    ((facing (.write .ibuf 4#32 7#32) converted).inputs = .write .ibuf 4#32 7#32 :: [] ∧
      (facing (.write .ibuf 4#32 7#32) converted).idepth.toNat ≤ (4#32 : Word).toNat) ∧
    ((facing (.write .obuf 0#32 7#32) converted).inputs = .write .obuf 0#32 7#32 :: []) := by decide

theorem witness_RegisterReadsFollowTheMap :
    (∀ r : RegName, (facing (.read .reg (regIndex r)) converted).inputs = .read .reg (regIndex r) :: []) ∧
    (facing (.read .reg 11#32) converted).inputs = .read .reg 11#32 :: [] ∧ 11 ≤ (11#32 : Word).toNat :=
  ⟨fun _ => rfl, rfl, by decide⟩

theorem facing_inv {s : State} (h : Inv s) (x : Input) : Inv (facing x s) :=
  ⟨h.1, h.2, h.3, h.4, h.5, h.6, h.7, h.8, h.9, h.10, h.11, h.12⟩

theorem witness_BufferReadsReturnTheElement :
    (∀ x, Inv (facing x converted)) ∧
    (0 < converted.idepth.toNat ∧ converted.ibuf.get 0 = some 0x4D#32) ∧
    (3 < converted.idepth.toNat ∧ converted.ibuf.get 3 = none) ∧ converted.idepth.toNat ≤ (4#32 : Word).toNat ∧
    (1#32 : Word).toNat < converted.outlen.toNat ∧ converted.outlen.toNat ≤ (2#32 : Word).toNat :=
  ⟨facing_inv converted_inv, by decide, by decide, by decide, by decide, by decide⟩

theorem witness_ObufReadsZeroAfterAnError : ∃ t, exec .mape { converted with arg0 := 64#32 } = .next t ∧ t.err ≠ .ok :=
  ⟨_, rfl, by decide⟩

theorem witness_SubwordAccessIsRefused :
    (facing (.subwordWrite .byte .reg 0#32 1#32) State.reset).inputs = .subwordWrite .byte .reg 0#32 1#32 :: [] ∧
    (facing (.subwordRead .half .obuf 0#32) State.reset).inputs = .subwordRead .half .obuf 0#32 :: [] := ⟨rfl, rfl⟩

theorem witness_PseudoInstructionsSetOperandsAndRun :
    ∀ line : ScriptLine, ∃ s : State, s.inputs = expand line ++ [.reset] :=
  fun line => ⟨State.reset.withInputs (expand line ++ [.reset]), rfl⟩

theorem witness_WrisWritesTheRun :
    (converted.withInputs (expand (.wris 2#32 [1#32, 2#32]))).inputs = expand (.wris 2#32 [1#32, 2#32]) ++ [] ∧
    (2#32 : Word).toNat + [1#32, 2#32].length ≤ converted.idepth.toNat := by decide

end Sys2Proof.Tests
end

section
/-! PROOFS. Reads of the register file (10_state.md R12 to R19, R31) and reset (R32), as steps of the machine. -/

namespace Sys2Proof.Machine

/-! ### The register file -/

/-- Each register stands at its own index and nowhere else (10_state.md R12). -/
theorem regAt_eq_some {i : Word} {r : RegName} : regAt i = some r ↔ i = regIndex r := by
  constructor
  · intro h
    apply BitVec.eq_of_toNat_eq
    unfold regAt at h
    split at h <;> cases h <;> assumption
  · rintro rfl
    exact regAt_regIndex r

/-- STATUS holds ERR·256 + CFGV (10_state.md R15). -/
theorem statusWord_toNat (s : State) : (statusWord s).toNat = 256 * s.err.code.toNat + s.cfgv.toNat := by
  unfold statusWord
  cases s.err <;> cases s.cfgv <;> rfl

/-- WIDTHS holds OUT_W·256 + IN_W (10_state.md R16). -/
theorem widthsWord_toNat (s : State) : (widthsWord s).toNat = 256 * s.outW.toNat + s.inW.toNat := by
  have hin : s.inW.toNat < 2 ^ 8 := by omega
  have hout : s.outW.toNat < 2 ^ 8 := by omega
  simp only [widthsWord, BitVec.toNat_append, BitVec.toNat_setWidth, Nat.mod_eq_of_lt hin, Nat.mod_eq_of_lt hout,
    ← Nat.shiftLeft_add_eq_or_of_lt hin]
  simp [Nat.shiftLeft_eq, Nat.mul_comm]

/-- A read of a register enters its value in the history and changes nothing else (20_memory.md R43). -/
theorem hostRead_regIndex (r : RegName) (s : State) :
    hostRead .reg (regIndex r) s = s.logEvent (.read .reg (regIndex r) (readReg r s)) := by
  simp [hostRead, hostValue]

/-- A read of a reserved index returns 0 (10_state.md R31). -/
theorem hostRead_reserved {i : Word} (h : 11 ≤ i.toNat) (s : State) :
    hostRead .reg i s = s.logEvent (.read .reg i 0#32) := by
  simp [hostRead, hostValue, regAt_eq_none.mpr h]

/-- Settles O38: an index of REG is a register's or a reserved one. -/
theorem registerReadsFollowTheMap : Obligations.RegisterReadsFollowTheMap := by
  intro s i rest h
  rw [step_of_inputs_cons h]
  cases hr : regAt i with
  | none =>
    have hi := regAt_eq_none.mp hr
    have hne : ∀ k : Word, k.toNat < 11 → i ≠ k := fun k hk hik => absurd hi (by rw [hik]; omega)
    exact ⟨0#32, congrArg _ (hostRead_reserved hi _), by simp [hne]⟩
  | some r =>
    cases regAt_eq_some.mp hr
    refine ⟨readReg r s, congrArg _ (hostRead_regIndex r _), ?_⟩
    cases r with
    | status =>
      cases he : s.err <;> cases hc : s.cfgv <;>
        simp [regIndex, readReg, statusWord_toNat, ErrorCode.code, he, hc]
    | _ => simp [regIndex, readReg, widthsWord_toNat]

/-! ### Reset -/

/-- Settles O7: a reset is `powerOnReset` on the state whose queue no longer holds it. -/
theorem resetSetsEveryCell : Obligations.ResetSetsEveryCell := by
  intro s rest h
  rw [step_of_inputs_cons h]
  rfl

end Sys2Proof.Machine
end

section
/-! PROOFS. The cells of a re-packer between bit steps (10_state.md R24, R25), and the output a conversion emits. -/

namespace Sys2Proof.Machine

/-! ### The cells between bit steps -/

/-- What 10_state.md R24 and R25 say of the cells between bit steps: the index and the accumulator in their ranges, and
every bit of the accumulator at or below the index 0. -/
structure Cells.Clear (ow : Nat) (c : Cells) : Prop where
  idx_nonneg : 0 ≤ c.idx
  idx_lt : c.idx < (ow : Int)
  acc_lt : c.acc < 2 ^ ow
  dvd_acc : 2 ^ (c.idx.toNat + 1) ∣ c.acc

theorem resetForm_clear {ow : Nat} (how : 1 ≤ ow) : (resetForm ow).Clear ow where
  idx_nonneg := by simp; omega
  idx_lt := by simp
  acc_lt := by simp
  dvd_acc := by simp

/-- Adding 2^IDX carries nothing: it sets bit IDX (10_state.md R25). -/
theorem Cells.Clear.add_eq_or {ow : Nat} {c : Cells} (h : c.Clear ow) :
    c.acc + 2 ^ c.idx.toNat = c.acc ||| 2 ^ c.idx.toNat := by
  obtain ⟨a, ha⟩ := h.dvd_acc
  rw [ha]
  exact Nat.two_pow_add_eq_or_of_lt (Nat.pow_lt_pow_right (by omega) (Nat.lt_succ_self _)) a

/-- A bit placed in the accumulator stays below `2^ow`. -/
theorem Cells.Clear.placeBit_acc_lt {ow : Nat} {c : Cells} (h : c.Clear ow) (b : Bool) :
    (placeBit b c).acc < 2 ^ ow := by
  have hlt := h.idx_lt
  have hpow : 2 ^ c.idx.toNat < 2 ^ ow := Nat.pow_lt_pow_right (by omega) (by have := h.idx_nonneg; omega)
  cases b with
  | false => exact h.acc_lt
  | true => simpa [h.add_eq_or] using Nat.or_lt_two_pow h.acc_lt hpow

/-- A bit placed in the accumulator leaves every bit below the old index 0. -/
theorem Cells.Clear.dvd_placeBit_acc {ow : Nat} {c : Cells} (h : c.Clear ow) (b : Bool) :
    2 ^ c.idx.toNat ∣ (placeBit b c).acc := by
  have hacc : 2 ^ c.idx.toNat ∣ c.acc := (Nat.pow_dvd_pow 2 (Nat.le_succ _)).trans h.dvd_acc
  cases b with
  | false => exact hacc
  | true => exact Nat.dvd_add hacc (dvd_refl _)

/-- A bit step keeps the cells clear: it moves one bit down, or completes a value and returns to the reset form. -/
theorem bitStep_clear {ow : Nat} {c : Cells} (h : c.Clear ow) (b : Bool) : (bitStep ow b c).1.Clear ow := by
  have hlt := h.idx_lt
  rcases h.idx_nonneg.lt_or_eq with hpos | hzero
  · rw [bitStep_of_idx_pos hpos]
    have hidx : (c.idx - 1).toNat + 1 = c.idx.toNat := by omega
    exact {
      idx_nonneg := by simp; omega
      idx_lt := by simp; omega
      acc_lt := h.placeBit_acc_lt b
      dvd_acc := by simpa only [placeBit_idx, hidx] using h.dvd_placeBit_acc b }
  · rw [bitStep_of_idx_zero hzero.symm]
    exact resetForm_clear (by omega)

theorem bitSteps_clear {ow : Nat} (bits : List Bool) {c : Cells} (h : c.Clear ow) : (bitSteps ow bits c).1.Clear ow := by
  induction bits generalizing c with
  | nil => exact h
  | cons b bits ih => exact ih (bitStep_clear h b)

/-- In reset form nothing is accumulated, so an accumulator that is not 0 has its index below `ow − 1`
(10_state.md R25). -/
theorem Cells.Clear.idx_lt_of_acc_ne_zero {ow : Nat} {c : Cells} (h : c.Clear ow) (hacc : c.acc ≠ 0) :
    c.idx < (ow : Int) - 1 := by
  by_contra hge
  have hnonneg := h.idx_nonneg
  have hlt := h.idx_lt
  have hidx : c.idx.toNat + 1 = ow := by omega
  exact hacc (Nat.eq_zero_of_dvd_of_lt (hidx ▸ h.dvd_acc) h.acc_lt)

/-- Settles O10, by the invariant `Cells.Clear` over the bit steps. -/
theorem accumulatorIsClearBelowIndex : Obligations.AccumulatorIsClearBelowIndex := by
  intro ow bits how _
  have h := bitSteps_clear bits (resetForm_clear how)
  have hlt := h.idx_lt
  exact ⟨⟨h.idx_nonneg, by omega, h.acc_lt⟩, Nat.mod_eq_zero_of_dvd h.dvd_acc, h.idx_lt_of_acc_ne_zero, h.add_eq_or⟩

/-! ### What a conversion emits -/

/-- The count of one bit step: the index falls by one, and each value emitted raises it by `ow`. -/
theorem bitStep_count {ow : Nat} {c : Cells} (h : c.Clear ow) (b : Bool) :
    ((bitStep ow b c).2.length : Int) * ow + c.idx = 1 + (bitStep ow b c).1.idx := by
  rcases h.idx_nonneg.lt_or_eq with hpos | hzero
  · simp [bitStep_of_idx_pos hpos]
  · simp [bitStep_of_idx_zero hzero.symm, ← hzero]

/-- The count over a run of bits (41_transcode.md R90, R91). -/
theorem bitSteps_count {ow : Nat} (bits : List Bool) {c : Cells} (h : c.Clear ow) :
    ((bitSteps ow bits c).2.length : Int) * ow + c.idx = bits.length + (bitSteps ow bits c).1.idx := by
  induction bits generalizing c with
  | nil => simp
  | cons b bits ih =>
    have hone := bitStep_count h b
    have hrest := ih (bitStep_clear h b)
    simp only [bitSteps_cons, List.length_append, List.length_cons, Nat.cast_add, Nat.cast_one, add_mul]
    omega

/-- A conversion emits ceil(n·iw / ow) values (41_transcode.md R98). -/
theorem length_convert_out {ow : Nat} (how : 1 ≤ ow) (iw : Nat) (vs : List Word) :
    (convert iw ow vs).out.length = ceilDiv (vs.length * iw) ow := by
  have hclear := bitSteps_clear (vs.flatMap (valueBits iw)) (resetForm_clear how)
  have hcount := bitSteps_count (vs.flatMap (valueBits iw)) (resetForm_clear how)
  rw [length_stream, resetForm_idx] at hcount
  have hnonneg := hclear.idx_nonneg
  have hlt := hclear.idx_lt
  simp only [convert, valueSteps_eq_bitSteps, ceilDiv]
  generalize bitSteps ow (vs.flatMap (valueBits iw)) (resetForm ow) = r at *
  symm
  by_cases hr : r.1.idx = (ow : Int) - 1
  · rw [flush_of_reset hr]
    apply Nat.div_eq_of_lt_le <;> simp only [add_mul] <;> omega
  · rw [flush_of_partial hr]
    apply Nat.div_eq_of_lt_le <;> simp only [List.length_append, List.length_singleton, add_mul] <;> omega

/-- A conversion leaves at most `ow − 1` padding bits (41_transcode.md R98). -/
theorem convert_pad_lt {ow : Nat} (how : 1 ≤ ow) (iw : Nat) (vs : List Word) : (convert iw ow vs).pad < ow := by
  have hlt := (bitSteps_clear (vs.flatMap (valueBits iw)) (resetForm_clear how)).idx_lt
  simp only [convert, valueSteps_eq_bitSteps]
  by_cases hr : (bitSteps ow (vs.flatMap (valueBits iw)) (resetForm ow)).1.idx = (ow : Int) - 1
  · rw [flush_of_reset hr]
    exact how
  · rw [flush_of_partial hr]
    simp only
    omega

end Sys2Proof.Machine
end

section
/-! PROOFS. How commands end: what each command writes when it succeeds and which errors it can raise, said once for every
command, and the frames that follow (10_state.md R14 to R28). -/

namespace Sys2Proof.Machine

/-! ### The error commit, field by field -/

section
variable (e : ErrorCode) (info : Word) (s : State)

@[simp] theorem errorCommit_errinfo : (errorCommit e info s).errinfo = info := by unfold errorCommit; split <;> rfl
@[simp] theorem errorCommit_result : (errorCommit e info s).result = 0#32 := by unfold errorCommit; split <;> rfl
@[simp] theorem errorCommit_outlen : (errorCommit e info s).outlen = 0#32 := by unfold errorCommit; split <;> rfl
@[simp] theorem errorCommit_pad : (errorCommit e info s).pad = 0#32 := by unfold errorCommit; split <;> rfl
@[simp] theorem errorCommit_arg0 : (errorCommit e info s).arg0 = s.arg0 := by unfold errorCommit; split <;> rfl
@[simp] theorem errorCommit_arg1 : (errorCommit e info s).arg1 = s.arg1 := by unfold errorCommit; split <;> rfl
@[simp] theorem errorCommit_idepth : (errorCommit e info s).idepth = s.idepth := by unfold errorCommit; split <;> rfl
@[simp] theorem errorCommit_odepth : (errorCommit e info s).odepth = s.odepth := by unfold errorCommit; split <;> rfl
@[simp] theorem errorCommit_ibuf : (errorCommit e info s).ibuf = s.ibuf := by unfold errorCommit; split <;> rfl
@[simp] theorem errorCommit_obuf : (errorCommit e info s).obuf = s.obuf := by unfold errorCommit; split <;> rfl
@[simp] theorem errorCommit_inputs : (errorCommit e info s).inputs = s.inputs := by unfold errorCommit; split <;> rfl
@[simp] theorem errorCommit_draws : (errorCommit e info s).draws = s.draws := by unfold errorCommit; split <;> rfl

end

/-! ### What the parts of a command can raise -/

/-- A check raises its own error only. -/
theorem require_raise {p : Prop} [Decidable p] {c e : ErrorCode} {i info : Word}
    (h : require p c i = .error (.raise e info)) : ¬ p ∧ e = c := by
  obtain ⟨hp, he⟩ := require_eq_error.mp h
  cases he
  exact ⟨hp, rfl⟩

/-- Reading the input elements raises no error: it can only fault. -/
theorem inputElements_ne_raise {s : State} {n : Nat} {e : ErrorCode} {info : Word} :
    inputElements s n ≠ .error (.raise e info) := by
  intro h
  obtain ⟨_, _, he, _⟩ := readElements_eq_error.mp h
  cases he

/-- As many elements are read as were asked for. -/
theorem inputElements_length {s : State} {n : Nat} {vs : List Word} (h : inputElements s n = .ok vs) :
    vs.length = n := (readElements_eq_ok.mp h).1

theorem requireInRange_raise {iw : Nat} {vs : List Word} {e : ErrorCode} {info : Word}
    (h : requireInRange iw vs = .error (.raise e info)) : e = .outOfRange := by
  unfold requireInRange at h
  split at h <;> cases h
  rfl

theorem charOf_raise {v : Word} {e : ErrorCode} {info : Word} (h : charOf v = .error (.raise e info)) :
    e = .outOfRange := by
  obtain ⟨_, he⟩ := charOf_eq_error.mp h
  cases he
  rfl

theorem sextetOf_raise {c i info : Word} {e : ErrorCode} (h : sextetOf c i = .error (.raise e info)) :
    e = .invalidCharacter := by
  obtain ⟨_, he⟩ := sextetOf_eq_error.mp h
  cases he
  rfl

theorem charsOf_raise {vs : List Word} {e : ErrorCode} {info : Word} (h : charsOf vs = .error (.raise e info)) :
    e = .outOfRange := by
  induction vs with
  | nil => cases h
  | cons v vs ih =>
    rcases bind_eq_error.mp h with hv | ⟨c, _, hrest⟩
    · exact charOf_raise hv
    · rcases bind_eq_error.mp hrest with hvs | ⟨cs, _, hret⟩
      · exact ih hvs
      · cases hret

/-- The scan raises INVALID_CHARACTER only (43_codec.md R134). -/
theorem scanText_raise {m : Memory} {k n : Nat} {e : ErrorCode} {info : Word}
    (h : scanText m k n = .error (.raise e info)) : e = .invalidCharacter := by
  induction n generalizing k with
  | zero => cases h
  | succ n ih =>
    cases hc : m.get k with
    | none =>
      rw [scanText_unwritten hc] at h
      cases h
    | some c =>
      by_cases hp : c = padChar
      · rw [scanText_padChar (hp ▸ hc)] at h
        cases h
      · rw [scanText_char hc hp] at h
        rcases bind_eq_error.mp h with hv | ⟨v, _, hrest⟩
        · exact sextetOf_raise hv
        · rcases bind_eq_error.mp hrest with hvs | ⟨vs, _, hret⟩
          · exact ih hvs
          · cases hret

/-! ### How a command ends -/

/-- The state a command has written when it succeeds, before the part of the commit that all commands share
(40_config.md R80, R82; 41_transcode.md R96; 42_alphabet.md R115, R117; 43_codec.md R131, R134). -/
inductive Writes (s : State) : Instr → State → Prop where
  | cfg (hinfo : badWidthInfo s.arg0 s.arg1 = 0#32) :
    Writes s .cfg (s.setConfig (s.arg0.setWidth 5) (s.arg1.setWidth 5))
  | inv (hcfgv : s.cfgv = true) : Writes s .inv (s.setConfig s.outW s.inW)
  | conv {vs : List Word} (hcfgv : s.cfgv = true) (hread : inputElements s s.arg0.toNat = .ok vs)
    (hrange : ∀ v ∈ vs, v.toNat < 2 ^ s.inW.toNat)
    (hfit : ceilDiv (s.arg0.toNat * s.inW.toNat) s.outW.toNat ≤ s.odepth.toNat) :
    Writes s .conv
      ((s.setOutput (convert s.inW.toNat s.outW.toNat vs).out (ceilDiv (s.arg0.toNat * s.inW.toNat) s.outW.toNat)
        (convert s.inW.toNat s.outW.toNat vs).pad).setCells
          (BitVec.ofInt 5 (resetForm s.outW.toNat).idx) (BitVec.ofNat 31 (resetForm s.outW.toNat).acc))
  | mape {c : Word} (hmap : mapE s.arg0 = some c) : Writes s .mape (s.setResult c)
  | mapd {v : Word} (hmap : mapD s.arg0 = some v) : Writes s .mapd (s.setResult v)
  | b64e {vs main text : List Word} (hread : inputElements s s.arg0.toNat = .ok vs)
    (hrange : ∀ v ∈ vs, v.toNat < 2 ^ octetWidth)
    (hmain : charsOf (convert octetWidth sextetWidth vs).out = .ok main)
    (htext : text = main ++ List.replicate ((convert octetWidth sextetWidth vs).pad / 2) padChar)
    (hfit : text.length ≤ s.odepth.toNat) :
    Writes s .b64e (s.setOutput text text.length (convert octetWidth sextetWidth vs).pad)
  | b64d {sx octets : List Word} (hscan : scanText s.ibuf 0 s.arg0.toNat = .ok sx)
    (hoctets : octets = if (convert sextetWidth octetWidth sx).pad > 0
      then (convert sextetWidth octetWidth sx).out.dropLast else (convert sextetWidth octetWidth sx).out)
    (hfit : octets.length ≤ s.odepth.toNat) :
    Writes s .b64d (s.setOutput octets octets.length (convert sextetWidth octetWidth sx).pad)

/-- The errors a command can raise: the "raised by" column of 60_exceptions.md R150, NOT_CONFIGURED only without a
re-packer. -/
def Raises (s : State) : Instr → ErrorCode → Prop
  | .cfg, e => e = .configurationError
  | .inv, e => e = .notConfigured ∧ s.cfgv = false
  | .conv, e => e = .notConfigured ∧ s.cfgv = false ∨ e = .lengthError ∨ e = .outOfRange
  | .mape, e => e = .outOfRange
  | .mapd, e => e = .invalidCharacter
  | .b64e, e => e = .lengthError ∨ e = .outOfRange
  | .b64d, e => e = .lengthError ∨ e = .invalidCharacter

/-- The two ways a command commits: a success with what it writes, or the error commit of an error it raises. -/
def Ends (s : State) (i : Instr) (t : State) : Prop :=
  (∃ u, Writes s i u ∧ t = successCommit u) ∨ ∃ e info, Raises s i e ∧ t = errorCommit e info s

/-- A command ends as `Ends` says when its success writes what `Writes` says and its errors are those of `Raises`. -/
theorem ends_of_finish {s t : State} {i : Instr} {r : Except Stop State} (h : finish s r = .next t)
    (hok : ∀ t, r = .ok t → ∃ u, Writes s i u ∧ t = successCommit u)
    (hraise : ∀ e info, r = .error (.raise e info) → Raises s i e) : Ends s i t := by
  rcases finish_eq_next.mp h with hr | ⟨e, info, hr, rfl⟩
  · exact .inl (hok t hr)
  · exact .inr ⟨e, info, hraise e info hr, rfl⟩

theorem execCfg_ends {s t : State} (h : execCfg s = .next t) : Ends s .cfg t := by
  apply ends_of_finish h
  · intro t ht
    obtain ⟨_, hinfo, ht⟩ := bind_eq_ok.mp ht
    cases ht
    exact ⟨_, .cfg (require_eq_ok.mp hinfo), rfl⟩
  · intro e info he
    rcases bind_eq_error.mp he with he | ⟨_, _, he⟩
    · exact (require_raise he).2
    · cases he

theorem execInv_ends {s t : State} (h : execInv s = .next t) : Ends s .inv t := by
  apply ends_of_finish h
  · intro t ht
    obtain ⟨_, hcfgv, ht⟩ := bind_eq_ok.mp ht
    cases ht
    exact ⟨_, .inv (require_eq_ok.mp hcfgv), rfl⟩
  · intro e info he
    rcases bind_eq_error.mp he with he | ⟨_, _, he⟩
    · obtain ⟨hcfgv, rfl⟩ := require_raise he
      exact ⟨rfl, by simpa using hcfgv⟩
    · cases he

theorem execConv_ends {s t : State} (h : execConv s = .next t) : Ends s .conv t := by
  apply ends_of_finish h
  · intro t ht
    obtain ⟨_, hcfgv, ht⟩ := bind_eq_ok.mp ht
    obtain ⟨_, _, ht⟩ := bind_eq_ok.mp ht
    obtain ⟨vs, hread, ht⟩ := bind_eq_ok.mp ht
    obtain ⟨_, hrange, ht⟩ := bind_eq_ok.mp ht
    obtain ⟨_, hfit, ht⟩ := bind_eq_ok.mp ht
    cases ht
    rw [convert_cells]
    exact ⟨_, .conv (require_eq_ok.mp hcfgv) hread (requireInRange_eq_ok.mp hrange) (require_eq_ok.mp hfit), rfl⟩
  · intro e info he
    rcases bind_eq_error.mp he with he | ⟨_, _, he⟩
    · obtain ⟨hcfgv, rfl⟩ := require_raise he
      exact .inl ⟨rfl, by simpa using hcfgv⟩
    rcases bind_eq_error.mp he with he | ⟨_, _, he⟩
    · exact .inr (.inl (require_raise he).2)
    rcases bind_eq_error.mp he with he | ⟨vs, _, he⟩
    · exact absurd he inputElements_ne_raise
    rcases bind_eq_error.mp he with he | ⟨_, _, he⟩
    · exact .inr (.inr (requireInRange_raise he))
    rcases bind_eq_error.mp he with he | ⟨_, _, he⟩
    · exact .inr (.inl (require_raise he).2)
    · cases he

theorem execMape_ends {s t : State} (h : execMape s = .next t) : Ends s .mape t := by
  apply ends_of_finish h
  · intro t ht
    obtain ⟨c, hc, ht⟩ := bind_eq_ok.mp ht
    cases ht
    exact ⟨_, .mape (charOf_eq_ok.mp hc), rfl⟩
  · intro e info he
    rcases bind_eq_error.mp he with he | ⟨_, _, he⟩
    · exact charOf_raise he
    · cases he

theorem execMapd_ends {s t : State} (h : execMapd s = .next t) : Ends s .mapd t := by
  apply ends_of_finish h
  · intro t ht
    obtain ⟨v, hv, ht⟩ := bind_eq_ok.mp ht
    cases ht
    exact ⟨_, .mapd (sextetOf_eq_ok.mp hv), rfl⟩
  · intro e info he
    rcases bind_eq_error.mp he with he | ⟨_, _, he⟩
    · exact sextetOf_raise he
    · cases he

theorem execB64e_ends {s t : State} (h : execB64e s = .next t) : Ends s .b64e t := by
  apply ends_of_finish h
  · intro t ht
    obtain ⟨_, _, ht⟩ := bind_eq_ok.mp ht
    obtain ⟨vs, hread, ht⟩ := bind_eq_ok.mp ht
    obtain ⟨_, hrange, ht⟩ := bind_eq_ok.mp ht
    obtain ⟨main, hmain, ht⟩ := bind_eq_ok.mp ht
    obtain ⟨_, hfit, ht⟩ := bind_eq_ok.mp ht
    cases ht
    exact ⟨_, .b64e hread (requireInRange_eq_ok.mp hrange) hmain rfl (require_eq_ok.mp hfit), rfl⟩
  · intro e info he
    rcases bind_eq_error.mp he with he | ⟨_, _, he⟩
    · exact .inl (require_raise he).2
    rcases bind_eq_error.mp he with he | ⟨vs, _, he⟩
    · exact absurd he inputElements_ne_raise
    rcases bind_eq_error.mp he with he | ⟨_, _, he⟩
    · exact .inr (requireInRange_raise he)
    rcases bind_eq_error.mp he with he | ⟨main, _, he⟩
    · exact .inr (charsOf_raise he)
    rcases bind_eq_error.mp he with he | ⟨_, _, he⟩
    · exact .inl (require_raise he).2
    · cases he

theorem execB64d_ends {s t : State} (h : execB64d s = .next t) : Ends s .b64d t := by
  apply ends_of_finish h
  · intro t ht
    obtain ⟨_, _, ht⟩ := bind_eq_ok.mp ht
    obtain ⟨sx, hscan, ht⟩ := bind_eq_ok.mp ht
    obtain ⟨_, hfit, ht⟩ := bind_eq_ok.mp ht
    cases ht
    exact ⟨_, .b64d hscan rfl (require_eq_ok.mp hfit), rfl⟩
  · intro e info he
    rcases bind_eq_error.mp he with he | ⟨_, _, he⟩
    · exact .inl (require_raise he).2
    rcases bind_eq_error.mp he with he | ⟨sx, _, he⟩
    · exact .inr (scanText_raise he)
    rcases bind_eq_error.mp he with he | ⟨_, _, he⟩
    · exact .inl (require_raise he).2
    · cases he

/-- All that a command can do. -/
theorem exec_ends {i : Instr} {s t : State} (h : exec i s = .next t) : Ends s i t := by
  cases i with
  | cfg => exact execCfg_ends h
  | inv => exact execInv_ends h
  | conv => exact execConv_ends h
  | mape => exact execMape_ends h
  | mapd => exact execMapd_ends h
  | b64e => exact execB64e_ends h
  | b64d => exact execB64d_ends h

/-- No command raises the code of success. -/
theorem Raises.ne_ok {s : State} {i : Instr} {e : ErrorCode} (h : Raises s i e) : e ≠ .ok := by
  rintro rfl
  cases i <;> simp [Raises] at h

/-- NOT_CONFIGURED is raised only without a re-packer (60_exceptions.md R150). -/
theorem Raises.unconfigured {s : State} {i : Instr} (h : Raises s i .notConfigured) : s.cfgv = false := by
  cases i with
  | inv => exact h.2
  | conv => simpa [Raises] using h
  | _ => simp [Raises] at h

/-! ### The frames -/

/-- Settles O12, from the two ways a command ends. -/
theorem commandsLeaveOperandsAndInput : Obligations.CommandsLeaveOperandsAndInput := by
  intro i s t h
  rcases exec_ends h with ⟨u, hw, rfl⟩ | ⟨e, info, hr, rfl⟩
  · cases hw <;> simp
  · simp [errorCommit_err, errorCommit_events, hr.ne_ok]

/-- Settles O13, from what each command writes when it succeeds. -/
theorem successfulCommandsWriteOnlyTheirResults : Obligations.SuccessfulCommandsWriteOnlyTheirResults := by
  intro i s t h hok
  rcases exec_ends h with ⟨u, hw, rfl⟩ | ⟨e, info, hr, rfl⟩
  · cases hw <;> simp
  · exact absurd ((errorCommit_err e info s).symm.trans hok) hr.ne_ok

end Sys2Proof.Machine
end

section
/-! PROOFS. The invariant of Safety.lean, operation by operation (10_state.md R18, R23, R24; 20_memory.md R44, R53;
60_exceptions.md R152, R153). -/

namespace Sys2Proof.Safety

open Sys2Proof.Machine

variable {s : State}

/-! ### Host accesses and reset -/

theorem Inv.withInputs (h : Inv s) (rest : List Input) : Inv (s.withInputs rest) := { h with }

theorem Inv.logEvent (h : Inv s) (e : Event) : Inv (s.logEvent e) := { h with }

theorem Inv.setDraws (h : Inv s) (n : Nat) : Inv (s.setDraws n) := { h with }

theorem Inv.setArg0 (h : Inv s) (v : Word) : Inv (s.setArg0 v) := { h with }

theorem Inv.setArg1 (h : Inv s) (v : Word) : Inv (s.setArg1 v) := { h with }

theorem BufferOk.nil (depth : Nat) : BufferOk [] depth := ⟨Memory.wf_nil, by simp⟩

/-- Writing a run below the depth keeps a buffer. -/
theorem BufferOk.setAll {m : Memory} {depth : Nat} (h : BufferOk m depth) (k : Nat) (vs : List Word)
    (hfit : k + vs.length ≤ depth) : BufferOk (m.setAll k vs) depth :=
  ⟨Memory.wf_setAll h.wf k vs, Memory.bounded_setAll h.bounded k vs hfit⟩

/-- A host write to IBUF below the depth keeps the invariant (20_memory.md R42). -/
theorem Inv.setIbuf (h : Inv s) {k : Nat} (hk : k < s.idepth.toNat) (v : Word) : Inv (s.setIbuf k v) :=
  { h with ibuf_ok := h.ibuf_ok.setAll k [v] hk }

theorem Inv.hostRead (h : Inv s) (space : Space) (i : Word) : Inv (hostRead space i s) := by
  rcases hostRead_cases space i s with ⟨v, _, hr⟩ | ⟨_, hr⟩ <;> rw [hr]
  · exact h.logEvent _
  · exact (h.logEvent _).setDraws _

/-- The state after a reset satisfies the invariant, for depths in range (10_state.md R32, 00_scope.md R6). -/
theorem inv_resetWith {d e : Word} (hd : d ≠ 0#32) (he : e ≠ 0#32) : Inv (State.resetWith d e) where
  idepth_pos := hd
  odepth_pos := he
  configured := by simp [State.resetWith]
  unconfigured := by simp [State.resetWith]
  ok_info _ := rfl
  error_cleared hne := absurd rfl hne
  error_unconfigured _ := rfl
  pad_le := Nat.zero_le _
  outlen_le := Nat.zero_le _
  output_listed k hk := absurd hk (Nat.not_lt_zero k)
  ibuf_ok := BufferOk.nil _
  obuf_ok := BufferOk.nil _

theorem Inv.powerOnReset (h : Inv s) : Inv (powerOnReset s) := { inv_resetWith h.idepth_pos h.odepth_pos with }

/-- Settles O8, for every pair of depths and so for those of `State.reset`. -/
theorem invariantHoldsAtReset : Obligations.InvariantHoldsAtReset :=
  ⟨fun _ _ => inv_resetWith, inv_resetWith (by decide) (by decide)⟩

/-! ### The commits -/

/-- An error commit keeps the invariant, when NOT_CONFIGURED is reported only without a re-packer (60_exceptions.md R150,
R152). -/
theorem Inv.errorCommit (h : Inv s) {e : ErrorCode} (hok : e ≠ .ok) (hcfgv : e = .notConfigured → s.cfgv = false)
    (info : Word) : Inv (errorCommit e info s) := by
  by_cases he : e = .configurationError
  · subst he
    rw [errorCommit_configurationError]
    exact { h with
      configured := by simp
      unconfigured := by simp
      ok_info := fun hok => by cases hok
      error_cleared := fun _ => ⟨rfl, rfl, rfl⟩
      error_unconfigured := fun _ => rfl
      pad_le := Nat.zero_le _
      outlen_le := Nat.zero_le _
      output_listed := fun k hk => absurd hk (Nat.not_lt_zero k) }
  · rw [errorCommit_of_ne he]
    exact { h with
      ok_info := fun h => absurd h hok
      error_cleared := fun _ => ⟨rfl, rfl, rfl⟩
      error_unconfigured := fun h => hcfgv (h.resolve_left he)
      pad_le := Nat.zero_le _
      outlen_le := Nat.zero_le _
      output_listed := fun k hk => absurd hk (Nat.not_lt_zero k) }

/-- The shared part of the success commit keeps the invariant (60_exceptions.md R153). -/
theorem Inv.successCommit (h : Inv s) : Inv (successCommit s) :=
  { h with
    ok_info := fun _ => rfl
    error_cleared := fun hne => absurd rfl hne
    error_unconfigured := by simp }

/-- A configured block with widths in range, in reset form (10_state.md R22, R23). -/
theorem Inv.commit_setConfig (h : Inv s) {iw ow : BitVec 5} (hiw : iw ≠ 0#5) (how : ow ≠ 0#5) :
    Inv (Machine.successCommit (s.setConfig iw ow)) :=
  { h.successCommit with
    configured := fun _ => ⟨hiw, how, rfl, rfl⟩
    unconfigured := by simp
    error_unconfigured := by simp }

theorem Inv.commit_setResult (h : Inv s) (v : Word) : Inv (Machine.successCommit (s.setResult v)) :=
  { h.successCommit with error_cleared := fun hne => absurd rfl hne }

/-- An output that fits OBUF, with its padding count in range (20_memory.md R44, R53; 10_state.md R18). -/
theorem Inv.commit_setOutput (h : Inv s) (out : List Word) {pad : Nat} (hfit : out.length ≤ s.odepth.toNat)
    (hpad : pad ≤ 30) : Inv (Machine.successCommit (s.setOutput out out.length pad)) := by
  have hlen : (BitVec.ofNat 32 out.length).toNat = out.length := by
    rw [BitVec.toNat_ofNat]
    exact Nat.mod_eq_of_lt (Nat.lt_of_le_of_lt hfit s.odepth.isLt)
  exact { h.successCommit with
    error_cleared := fun hne => absurd rfl hne
    pad_le := by simp; omega
    outlen_le := by simpa [hlen] using hfit
    output_listed := fun k hk => by
      have hk : k < out.length := by simpa [hlen] using hk
      have hget := Memory.get_setAll_at out s.obuf 0 k hk
      simp_all
    obuf_ok := h.obuf_ok.setAll 0 out (by omega) }

/-- The index of the reset form, as IDX holds it (10_state.md R22). -/
theorem ofInt_resetForm_idx (ow : BitVec 5) : BitVec.ofInt 5 (resetForm ow.toNat).idx = ow - 1#5 := by
  revert ow
  decide

/-- The cells in reset form for a configured block's output width. -/
theorem Inv.setCells_resetForm (h : Inv s) (hcfgv : s.cfgv = true) :
    Inv (s.setCells (BitVec.ofInt 5 (resetForm s.outW.toNat).idx) (BitVec.ofNat 31 (resetForm s.outW.toNat).acc)) := by
  obtain ⟨hiw, how, -, -⟩ := h.configured hcfgv
  exact { h with
    configured := fun _ => ⟨hiw, how, ofInt_resetForm_idx s.outW, rfl⟩
    unconfigured := fun hf => by simp [hcfgv] at hf }

/-! ### Commands -/

theorem badWidth_eq_false {w : Word} : badWidth w = false ↔ 1 ≤ w.toNat ∧ w.toNat ≤ 31 := by
  rw [badWidth, decide_eq_false_iff_not, wMin, wMax]
  omega

/-- CFG's check passes exactly when neither width is bad (60_exceptions.md R151). -/
theorem badWidthInfo_eq_zero {iw ow : Word} :
    badWidthInfo iw ow = 0#32 ↔ badWidth iw = false ∧ badWidth ow = false := by
  unfold badWidthInfo
  cases badWidth iw <;> cases badWidth ow <;> decide

/-- A width in [1, 31] stays above 0 in a 5-bit cell (40_config.md R80). -/
theorem setWidth_ne_zero_of_badWidth {w : Word} (h : badWidth w = false) : w.setWidth 5 ≠ 0#5 := by
  obtain ⟨hlo, hhi⟩ := badWidth_eq_false.mp h
  bv_omega

/-- A successful command keeps the invariant. -/
theorem Inv.writes (h : Inv s) {i : Instr} {u : State} (hw : Writes s i u) : Inv (Machine.successCommit u) := by
  cases hw with
  | cfg hinfo =>
    obtain ⟨hiw, how⟩ := badWidthInfo_eq_zero.mp hinfo
    exact h.commit_setConfig (setWidth_ne_zero_of_badWidth hiw) (setWidth_ne_zero_of_badWidth how)
  | inv hcfgv =>
    obtain ⟨hiw, how, -, -⟩ := h.configured hcfgv
    exact h.commit_setConfig how hiw
  | @conv vs hcfgv hread _ hfit =>
    obtain ⟨-, how, -, -⟩ := h.configured hcfgv
    have how : 1 ≤ s.outW.toNat := by bv_omega
    have hlen := length_convert_out how s.inW.toNat vs
    have hpad := convert_pad_lt how s.inW.toNat vs
    rw [inputElements_length hread] at hlen
    rw [← hlen] at hfit ⊢
    have hlt := s.outW.isLt
    exact (h.commit_setOutput _ hfit (by omega)).setCells_resetForm hcfgv
  | mape _ => exact h.commit_setResult _
  | mapd _ => exact h.commit_setResult _
  | @b64e vs _ _ _ _ _ _ hfit =>
    have hpad : (convert octetWidth sextetWidth vs).pad < 6 := convert_pad_lt (by decide) _ vs
    exact h.commit_setOutput _ hfit (by omega)
  | @b64d sx _ _ _ hfit =>
    have hpad : (convert sextetWidth octetWidth sx).pad < 8 := convert_pad_lt (by decide) _ sx
    exact h.commit_setOutput _ hfit (by omega)

theorem Inv.exec (h : Inv s) {i : Instr} {t : State} (ht : exec i s = .next t) : Inv t := by
  rcases exec_ends ht with ⟨u, hw, rfl⟩ | ⟨e, info, hr, rfl⟩
  · exact h.writes hw
  · exact h.errorCommit hr.ne_ok (fun he => (he ▸ hr).unconfigured) info

/-- A command word keeps the invariant, legal or not (30_encoding.md R61, R64). -/
theorem Inv.issueCommand (h : Inv s) {w : Word} {t : State} (ht : issueCommand w s = .next t) : Inv t := by
  unfold Machine.issueCommand at ht
  split at ht
  · exact h.exec ht
  · cases ht
    exact h.errorCommit (by simp) (by simp) w

/-! ### The step -/

theorem Inv.hostWrite (h : Inv s) {space : Space} {i v : Word} {t : State} (ht : hostWrite space i v s = .next t) :
    Inv t := by
  rcases hostWrite_cases space i v s with ⟨-, -, hw⟩ | ⟨-, -, hw⟩ | ⟨-, -, hw⟩ | ⟨-, hi, hw⟩ | hw <;> rw [hw] at ht
  · exact h.issueCommand ht
  · cases ht
    exact h.setArg0 v
  · cases ht
    exact h.setArg1 v
  · cases ht
    exact h.setIbuf hi v
  · cases ht
    exact h

theorem Inv.perform (h : Inv s) {x : Input} {t : State} (ht : perform x s = .next t) : Inv t := by
  cases x with
  | write space i v => exact h.hostWrite ht
  | read space i =>
    cases ht
    exact h.hostRead space i
  | subwordWrite _ _ _ _ => cases ht
  | subwordRead _ _ _ => cases ht
  | reset =>
    cases ht
    exact h.powerOnReset

/-- Settles O9: a step waits, or performs the oldest operation. -/
theorem stepKeepsInvariant : Obligations.StepKeepsInvariant := by
  intro s t h ht
  cases hi : s.inputs with
  | nil =>
    rw [step_of_inputs_nil hi] at ht
    cases ht
    exact h
  | cons x rest =>
    rw [step_of_inputs_cons hi] at ht
    exact (h.withInputs rest).perform ht

end Sys2Proof.Safety
end

section
/-! PROOFS. Host accesses as steps of the machine (20_memory.md R41 to R44, R50): which command a step runs, what a host
write stores and what a host read returns. -/

namespace Sys2Proof.Machine

/-! ### Commands -/

/-- A word that decodes runs its command (30_encoding.md R61). -/
theorem issueCommand_of_decode {w : Word} {i : Instr} (h : decode w = .ok i) (s : State) :
    issueCommand w s = exec i s := by
  simp [issueCommand, h]

theorem tableWord_eq_some {nbits w : Nat} {cw : Word} :
    tableWord nbits w = some cw ↔ w % 2 ^ nbits < 2 ^ 32 ∧ BitVec.ofNat 32 (w % 2 ^ nbits) = cw := by
  unfold tableWord
  split
  · simp only [*, true_and, Option.some.injEq]
  · simp only [*, false_and, reduceCtorEq]

/-- The command of a table word is what its 32-bit command word decodes to (30_encoding.md R61, R65). -/
theorem decode_of_decodeTableWord {nbits w : Nat} {i : Instr} (h : decodeTableWord nbits w = some i) :
    decode (BitVec.ofNat 32 (w % 2 ^ nbits)) = .ok i := by
  unfold decodeTableWord at h
  split at h
  · cases h
  · rename_i cw hcw
    obtain ⟨-, rfl⟩ := tableWord_eq_some.mp hcw
    split at h
    · rename_i j hj
      cases h
      exact hj
    · cases h

/-- The step after `issueNext` issues that word on the state itself (20_memory.md R57). -/
theorem step_issueNext (w : Word) (s : State) : step (issueNext w s) = issueCommand w s := rfl

/-- Settles O4: the write to CMD issues its value, and a decodable value runs its command. -/
theorem stepRunsDecodedCommand : Obligations.StepRunsDecodedCommand := by
  constructor
  · intro s w i rest h hdec
    rw [step_of_inputs_cons h, perform_write_cmd, issueCommand_of_decode hdec]
    rfl
  · intro s nbits w i h
    rw [State.withFetchWord, step_issueNext, issueCommand_of_decode (decode_of_decodeTableWord h)]

/-- Settles O41: a narrower access is ill formed, whatever its size, space and index. -/
theorem subwordAccessIsRefused : Obligations.SubwordAccessIsRefused := by
  rintro s size space i v rest (h | h) <;> rw [step_of_inputs_cons h] <;> exact perform_subword rfl _

/-! ### Host writes -/

/-- A write to a register the host cannot write, or to a reserved index, is ignored (20_memory.md R42). -/
theorem hostWrite_reg_readOnly {i : Word} (h : 3 ≤ i.toNat) (v : Word) (s : State) : hostWrite .reg i v s = .next s := by
  have hne : ∀ r : RegName, (regIndex r).toNat < 3 → regAt i ≠ some r := by
    rintro r hr hi
    rw [regAt_eq_some.mp hi] at h
    omega
  rcases hostWrite_cases .reg i v s with ⟨-, hi, -⟩ | ⟨-, hi, -⟩ | ⟨-, hi, -⟩ | ⟨hspace, -⟩ | hw
  · exact absurd hi (hne .cmd (by decide))
  · exact absurd hi (hne .arg0 (by decide))
  · exact absurd hi (hne .arg1 (by decide))
  · cases hspace
  · exact hw

theorem hostWrite_ibuf_below {i : Word} (v : Word) (s : State) (h : i.toNat < s.idepth.toNat) :
    hostWrite .ibuf i v s = .next (s.setIbuf i.toNat v) := if_pos h

theorem hostWrite_ibuf_beyond {i : Word} (v : Word) (s : State) (h : s.idepth.toNat ≤ i.toNat) :
    hostWrite .ibuf i v s = .next s := if_neg (Nat.not_lt.mpr h)

/-- Settles O37, one kind of location after the other. -/
theorem hostWritesStoreOnlyWhereTheMapSays : Obligations.HostWritesStoreOnlyWhereTheMapSays := by
  intro s space i v rest h
  rw [step_of_inputs_cons h, perform]
  refine ⟨?cmd, ?arg0, ?arg1, ?readOnly, ?below, ?beyond, ?obuf⟩
  case cmd => rintro rfl rfl; rfl
  case arg0 => rintro rfl rfl; rfl
  case arg1 => rintro rfl rfl; rfl
  case readOnly =>
    rintro rfl hi
    exact hostWrite_reg_readOnly hi v _
  case below =>
    rintro rfl hi
    exact ⟨s.ibuf.set i.toNat v, hostWrite_ibuf_below v (s.withInputs rest) hi, Memory.get_set_same _ _ _,
      fun k hk => Memory.get_set_other _ v hk⟩
  case beyond =>
    rintro rfl hi
    exact hostWrite_ibuf_beyond v (s.withInputs rest) hi
  case obuf => rintro rfl; rfl

/-! ### Host reads -/

/-- A read of a location with a value enters it in the history and changes nothing else (20_memory.md R43). -/
theorem hostRead_of_some {space : Space} {i v : Word} {s : State} (h : hostValue space i s = some v) :
    hostRead space i s = s.logEvent (.read space i v) := by
  simp [hostRead, h]

/-- A read of an unspecified location returns the next draw (70_reset_and_hazards.md R181). -/
theorem hostRead_of_none {space : Space} {i : Word} {s : State} (h : hostValue space i s = none) :
    hostRead space i s = (s.logEvent (.read space i (Config.freeWord s.draws))).setDraws (s.draws + 1) := by
  simp [hostRead, h]

theorem hostValue_ibuf_below {i : Word} {s : State} (h : i.toNat < s.idepth.toNat) :
    hostValue .ibuf i s = s.ibuf.get i.toNat := if_pos h

theorem hostValue_ibuf_beyond {i : Word} {s : State} (h : s.idepth.toNat ≤ i.toNat) :
    hostValue .ibuf i s = some 0#32 := if_neg (Nat.not_lt.mpr h)

theorem hostValue_obuf_below {i : Word} {s : State} (h : i.toNat < s.outlen.toNat) :
    hostValue .obuf i s = s.obuf.get i.toNat := if_pos h

theorem hostValue_obuf_beyond {i : Word} {s : State} (h : s.outlen.toNat ≤ i.toNat) :
    hostValue .obuf i s = some 0#32 := if_neg (Nat.not_lt.mpr h)

/-- A step that reads a location with a value enters it in the history, and changes nothing else but the queue. -/
theorem step_read_of_some {s : State} {space : Space} {i v : Word} {rest : List Input}
    (h : s.inputs = .read space i :: rest) (hv : hostValue space i (s.withInputs rest) = some v) :
    step s = .next { s with inputs := rest, events := .read space i v :: s.events } := by
  rw [step_of_inputs_cons h, perform, hostRead_of_some hv]
  rfl

/-- A step that reads an unspecified location enters some value in the history and uses up one draw. -/
theorem step_read_of_none {s : State} {space : Space} {i : Word} {rest : List Input}
    (h : s.inputs = .read space i :: rest) (hv : hostValue space i (s.withInputs rest) = none) :
    ∃ v, step s = .next { s with inputs := rest, events := .read space i v :: s.events, draws := s.draws + 1 } := by
  rw [step_of_inputs_cons h, perform, hostRead_of_none hv]
  exact ⟨_, rfl⟩

/-- Settles O39: an element of OBUF below OUTLEN is listed by the invariant. -/
theorem bufferReadsReturnTheElement : Obligations.BufferReadsReturnTheElement := by
  intro s i rest hinv
  refine ⟨fun h => ⟨?written, ?unwritten, ?beyond⟩, fun h => ⟨?output, ?pastOutlen⟩⟩
  case written => exact fun v hi hv => step_read_of_some h ((hostValue_ibuf_below hi).trans hv)
  case unwritten => exact fun hi hv => step_read_of_none h ((hostValue_ibuf_below hi).trans hv)
  case beyond => exact fun hi => step_read_of_some h (hostValue_ibuf_beyond hi)
  case output =>
    intro hi
    obtain ⟨v, hv⟩ := Option.isSome_iff_exists.mp (hinv.output_listed _ hi)
    exact ⟨v, hv, step_read_of_some h ((hostValue_obuf_below hi).trans hv)⟩
  case pastOutlen => exact fun hi => step_read_of_some h (hostValue_obuf_beyond hi)

/-! ### After a command -/

/-- A command that ends in error leaves no output (60_exceptions.md R152). -/
theorem exec_error_outlen {c : Instr} {s t : State} (h : exec c s = .next t) (herr : t.err ≠ .ok) :
    t.outlen = 0#32 := by
  rcases exec_ends h with ⟨u, _, rfl⟩ | ⟨e, info, _, rfl⟩
  · exact absurd (successCommit_err u) herr
  · exact errorCommit_outlen e info s

/-- Settles O40: every index is at or above an OUTLEN of 0. -/
theorem obufReadsZeroAfterAnError : Obligations.ObufReadsZeroAfterAnError := by
  intro c s t i rest h herr
  have hlen : t.outlen.toNat ≤ i.toNat := by simp [exec_error_outlen h herr]
  exact step_read_of_some rfl (hostValue_obuf_beyond hlen)

end Sys2Proof.Machine
end

section
/-! PROOFS. Where the output commands store (20_memory.md R53): a run of elements from OBUF[0] on, as long as OUTLEN says. -/

namespace Sys2Proof.Safety

open Sys2Proof.Machine

variable {s : State}

/-- The length CONV commits is that of its output (41_transcode.md R98). -/
theorem Inv.length_conv_out (h : Inv s) (hcfgv : s.cfgv = true) {n : Nat} {vs : List Word}
    (hread : inputElements s n = .ok vs) :
    (convert s.inW.toNat s.outW.toNat vs).out.length = ceilDiv (n * s.inW.toNat) s.outW.toNat := by
  obtain ⟨-, how, -, -⟩ := h.configured hcfgv
  rw [length_convert_out (by bv_omega), inputElements_length hread]

/-- A success of CONV, B64E or B64D writes a run from OBUF[0] on, and OUTLEN is its length (20_memory.md R53). -/
theorem Inv.writes_run (h : Inv s) {i : Instr} {u : State} (hi : i = .conv ∨ i = .b64e ∨ i = .b64d)
    (hw : Writes s i u) : ∃ out : List Word, u.obuf = s.obuf.setAll 0 out ∧ u.outlen.toNat = out.length := by
  have hlen : ∀ n, n ≤ s.odepth.toNat → (BitVec.ofNat 32 n).toNat = n := fun n hn =>
    Nat.mod_eq_of_lt (Nat.lt_of_le_of_lt hn s.odepth.isLt)
  cases hw with
  | cfg _ => simp at hi
  | inv _ => simp at hi
  | conv hcfgv hread _ hfit => exact ⟨_, rfl, (hlen _ hfit).trans (h.length_conv_out hcfgv hread).symm⟩
  | mape _ => simp at hi
  | mapd _ => simp at hi
  | b64e _ _ _ _ hfit => exact ⟨_, rfl, hlen _ hfit⟩
  | b64d _ _ hfit => exact ⟨_, rfl, hlen _ hfit⟩

/-- Settles O14: a success writes a run as long as OUTLEN, and an error commit leaves both buffers. -/
theorem outputCommandsStoreOnlyBelowOutlen : Obligations.OutputCommandsStoreOnlyBelowOutlen := by
  intro i s t h hi ht
  obtain ⟨-, -, hibuf, -⟩ := commandsLeaveOperandsAndInput i s t ht
  rcases exec_ends ht with ⟨u, hw, rfl⟩ | ⟨e, info, hr, rfl⟩
  · obtain ⟨out, hobuf, houtlen⟩ := h.writes_run hi hw
    refine ⟨fun _ k hk => ?_, fun _ => (h.exec ht).output_listed, fun herr => absurd rfl herr, hibuf⟩
    rw [successCommit_outlen, houtlen] at hk
    rw [successCommit_obuf, hobuf, Memory.get_setAll_beyond out _ (by omega)]
  · have hne : (errorCommit e info s).err ≠ .ok := by rw [errorCommit_err]; exact hr.ne_ok
    exact ⟨fun hok => absurd hok hne, fun hok => absurd hok hne, fun _ k => by rw [errorCommit_obuf], hibuf⟩

end Sys2Proof.Safety
end

section
/-! PROOFS. The command word and its two fields (30_encoding.md R60 to R65): a word is its fields, and so decoding and
encoding agree. -/

namespace Sys2Proof

/-! ### The fields of a word -/

/-- A word is RSV above OP (30_encoding.md R60). -/
theorem fieldRsv_append_fieldOp (w : Word) : fieldRsv w ++ fieldOp w = w :=
  (BitVec.extractLsb'_append_extractLsb'_eq_extractLsb' rfl).trans BitVec.extractLsb'_eq_self

@[simp] theorem fieldRsv_encode (i : Instr) : fieldRsv (encode i) = 0#28 := BitVec.extractLsb'_append_eq_left

@[simp] theorem fieldOp_encode (i : Instr) : fieldOp (encode i) = opcode i := BitVec.extractLsb'_append_eq_right

theorem fieldRsv_toNat (w : Word) : (fieldRsv w).toNat = w.toNat / 16 := by
  rw [fieldRsv, BitVec.extractLsb'_toNat, Nat.shiftRight_eq_div_pow]
  omega

theorem fieldOp_toNat (w : Word) : (fieldOp w).toNat = w.toNat % 16 := by
  rw [fieldOp, BitVec.extractLsb'_toNat, Nat.shiftRight_zero]

/-- A word is the one of a command exactly when RSV is 0 and OP is the command's (30_encoding.md R60, R62). -/
theorem eq_encode_iff {w : Word} {i : Instr} : w = encode i ↔ fieldRsv w = 0#28 ∧ fieldOp w = opcode i := by
  constructor
  · rintro rfl
    exact ⟨fieldRsv_encode i, fieldOp_encode i⟩
  · rintro ⟨hrsv, hop⟩
    rw [← fieldRsv_append_fieldOp w, hrsv, hop, encode]

/-! ### The decoder -/

/-- The decoder reads a command exactly where RSV is 0 and OP is the command's (30_encoding.md R61). -/
theorem decode_eq_ok {w : Word} {i : Instr} : decode w = .ok i ↔ fieldRsv w = 0#28 ∧ fieldOp w = opcode i := by
  unfold decode
  by_cases hrsv : fieldRsv w = 0#28
  · rw [if_neg (not_not.mpr hrsv)]
    constructor
    · intro h
      refine ⟨hrsv, BitVec.eq_of_toNat_eq ?_⟩
      split at h <;> cases h <;> assumption
    · rintro ⟨-, hop⟩
      rw [hop]
      cases i <;> rfl
  · simp [hrsv]

theorem decode_encode (i : Instr) : decode (encode i) = .ok i :=
  decode_eq_ok.mpr ⟨fieldRsv_encode i, fieldOp_encode i⟩

/-- Settles O1: both sides say that RSV is 0 and that OP is the command's. -/
theorem commandWordsSelectExactly : Obligations.CommandWordsSelectExactly :=
  ⟨fun _ _ => decode_eq_ok.trans eq_encode_iff.symm, rfl, rfl, rfl, rfl, rfl, rfl, rfl⟩

/-- Settles O2, word by word. -/
theorem sampleWordsDecode : Obligations.SampleWordsDecode :=
  ⟨rfl, rfl, rfl, rfl, rfl, rfl, rfl, rfl, rfl⟩

/-! ### Illegal words -/

/-- OP of a command is neither 0 nor reserved (30_encoding.md R62). -/
theorem opcode_toNat_range (i : Instr) : 1 ≤ (opcode i).toNat ∧ (opcode i).toNat ≤ 7 := by
  cases i <;> decide

/-- A word with RSV ≠ 0 or a reserved OP selects no command (30_encoding.md R64). -/
theorem decode_ne_ok_of_illegal {w : Word} (h : w.toNat / 16 ≠ 0 ∨ w.toNat % 16 = 0 ∨ 8 ≤ w.toNat % 16) (i : Instr) :
    decode w ≠ .ok i := by
  intro hdec
  obtain ⟨hrsv, hop⟩ := decode_eq_ok.mp hdec
  have hrsv0 : w.toNat / 16 = 0 := by rw [← fieldRsv_toNat, hrsv, BitVec.toNat_zero]
  have hopcode : w.toNat % 16 = (opcode i).toNat := by rw [← fieldOp_toNat, hop]
  have hrange := opcode_toNat_range i
  omega

end Sys2Proof

namespace Sys2Proof.Safety

open Sys2Proof.Machine

/-- The error commit of every error but CONFIGURATION_ERROR leaves the state that claims call `reported`
(60_exceptions.md R152). -/
theorem errorCommit_eq_reported {e : ErrorCode} (h : e ≠ .configurationError) (info : Word) (s : State) :
    errorCommit e info s = reported e info s := errorCommit_of_ne h info s

/-- A word that selects no command only reports itself (30_encoding.md R64). -/
theorem issueCommand_of_undecodable {w : Word} (h : ∀ i, decode w ≠ .ok i) (s : State) :
    issueCommand w s = .next (reported .illegalCommand w s) := by
  unfold issueCommand
  split
  · exact absurd ‹_› (h _)
  · rw [errorCommit_eq_reported (by decide)]

/-- Settles O3: the write to CMD issues a word that selects no command. -/
theorem illegalWordsOnlyReportThemselves : Obligations.IllegalWordsOnlyReportThemselves := by
  intro s w rest h hillegal
  rw [step_of_inputs_cons h, perform_write_cmd, issueCommand_of_undecodable (decode_ne_ok_of_illegal hillegal)]
  rfl

end Sys2Proof.Safety
end

section
/-! PROOFS. The expansions of the pseudo-instructions as runs of the machine (30_encoding.md R66, R67). -/

namespace Sys2Proof.Machine

variable {s t : State} {rest : List Input}

/-! ### Steps of a line -/

/-- A step that goes on leaves the others to do. -/
theorem stepTimes_succ_of_next (h : step s = .next t) (n : Nat) : stepTimes (n + 1) s = stepTimes n t := by
  simp [stepTimes, h]

theorem stepTimes_one (s : State) : stepTimes 1 s = step s := by
  unfold stepTimes
  split <;> simp [stepTimes, *]

theorem step_writeReg_arg0 {v : Word} (h : s.inputs = writeReg .arg0 v :: rest) :
    step s = .next ((s.withInputs rest).setArg0 v) := by
  rw [step_of_inputs_cons h]
  rfl

theorem step_writeReg_arg1 {v : Word} (h : s.inputs = writeReg .arg1 v :: rest) :
    step s = .next ((s.withInputs rest).setArg1 v) := by
  rw [step_of_inputs_cons h]
  rfl

/-- A command with no operands runs on the state without its own operation (30_encoding.md R66). -/
theorem step_issue {c : Instr} (h : s.inputs = issue c :: rest) : step s = exec c (s.withInputs rest) :=
  stepRunsDecodedCommand.1 s (encode c) c rest h (decode_encode c)

theorem step_write_ibuf {i v : Word} (h : s.inputs = .write .ibuf i v :: rest) (hi : i.toNat < s.idepth.toNat) :
    step s = .next ((s.withInputs rest).setIbuf i.toNat v) := by
  rw [step_of_inputs_cons h, perform, hostWrite_ibuf_below v (s.withInputs rest) hi]

/-! ### Operands and a command -/

/-- An operand and its command: the expansion of every pseudo-instruction with one operand (30_encoding.md R67). -/
theorem stepTimes_operand_issue {n : Word} {c : Instr} (h : s.inputs = [writeReg .arg0 n, issue c] ++ rest) :
    stepTimes 2 s = exec c { s with inputs := rest, arg0 := n } := by
  rw [stepTimes_succ_of_next (step_writeReg_arg0 h), stepTimes_one, step_issue rfl]
  rfl

/-- Settles O42: CFG writes one more operand, and the others are one operand and a command. -/
theorem pseudoInstructionsSetOperandsAndRun : Obligations.PseudoInstructionsSetOperandsAndRun := by
  constructor
  · intro s iw ow rest h
    rw [stepTimes_succ_of_next (step_writeReg_arg0 h), stepTimes_succ_of_next (step_writeReg_arg1 rfl), stepTimes_one,
      step_issue rfl]
    rfl
  · intro s n rest
    exact ⟨stepTimes_operand_issue, stepTimes_operand_issue, stepTimes_operand_issue, stepTimes_operand_issue,
      stepTimes_operand_issue⟩

/-! ### A run of elements -/

/-- The steps of a run below the depth write its values one after the other (30_encoding.md R67). An index below the
depth is below 2^32 − 1, so the next one does not wrap. -/
theorem stepTimes_writeRun (vs : List Word) {s : State} {i : Word} (h : s.inputs = writeRun i vs ++ rest)
    (hfit : i.toNat + vs.length ≤ s.idepth.toNat) :
    stepTimes vs.length s = .next { s with inputs := rest, ibuf := s.ibuf.setAll i.toNat vs } := by
  induction vs generalizing s i with
  | nil =>
    obtain rfl : s.inputs = rest := h
    rfl
  | cons v vs ih =>
    rw [List.length_cons] at hfit ⊢
    have hnext : (i + 1#32).toNat = i.toNat + 1 := by bv_omega
    have hrest : (i + 1#32).toNat + vs.length ≤ s.idepth.toNat := by omega
    rw [stepTimes_succ_of_next (step_write_ibuf h (by omega)), ih rfl (by exact hrest), hnext]
    rfl

/-- Settles O43: the run's elements are those of `Memory.setAll`. -/
theorem wrisWritesTheRun : Obligations.WrisWritesTheRun := by
  intro s i vs rest h hfit
  refine ⟨s.ibuf.setAll i.toNat vs, stepTimes_writeRun vs h hfit, Memory.get_setAll_at vs s.ibuf i.toNat, ?_⟩
  intro k hk
  rcases hk with hbelow | hbeyond
  · exact Memory.get_setAll_below vs s.ibuf hbelow
  · exact Memory.get_setAll_beyond vs s.ibuf hbeyond

end Sys2Proof.Machine
end

section
/-! PROOFS. The configuration commands (40_config.md R80, R82, R83): what CFG and INV answer in each case, each said once
through the named updates of the state. -/

namespace Sys2Proof.Safety

open Sys2Proof.Machine

variable {s : State}

/-! ### What the commands answer -/

theorem badWidth_eq_true {w : Word} : badWidth w = true ↔ ¬ (1 ≤ w.toNat ∧ w.toNat ≤ 31) := by
  rw [← badWidth_eq_false, Bool.not_eq_false]

/-- The error commit of CONFIGURATION_ERROR leaves the state that claims call `reportedUnconfigured`
(60_exceptions.md R152). -/
theorem errorCommit_eq_reportedUnconfigured (info : Word) (s : State) :
    errorCommit .configurationError info s = reportedUnconfigured info s := errorCommit_configurationError info s

/-- CFG constructs the re-packer for two widths in [1, 31] (40_config.md R80). -/
theorem exec_cfg_of_widths (h0 : 1 ≤ s.arg0.toNat ∧ s.arg0.toNat ≤ 31) (h1 : 1 ≤ s.arg1.toNat ∧ s.arg1.toNat ≤ 31) :
    exec .cfg s = .next (successCommit (s.setConfig (s.arg0.setWidth 5) (s.arg1.setWidth 5))) :=
  congrArg (finish s) (require_bind_of
    (badWidthInfo_eq_zero.mpr ⟨badWidth_eq_false.mpr h0, badWidth_eq_false.mpr h1⟩) _ _ _)

/-- CFG reports the bad widths and leaves no instance (40_config.md R80, 60_exceptions.md R151). -/
theorem exec_cfg_of_badWidthInfo {info : Word} (hinfo : badWidthInfo s.arg0 s.arg1 = info) (hbad : info ≠ 0#32) :
    exec .cfg s = .next (reportedUnconfigured info s) := by
  subst hinfo
  rw [← errorCommit_eq_reportedUnconfigured]
  exact congrArg (finish s) (require_bind_of_not hbad _ _ _)

/-- INV swaps the widths of a configured block (40_config.md R82). -/
theorem exec_inv_of_configured (h : s.cfgv = true) :
    exec .inv s = .next (successCommit (s.setConfig s.outW s.inW)) :=
  congrArg (finish s) (require_bind_of h _ _ _)

/-- INV reports that there is no instance (40_config.md R82). -/
theorem exec_inv_of_unconfigured (h : s.cfgv = false) : exec .inv s = .next (reported .notConfigured 0#32 s) := by
  rw [← errorCommit_eq_reported (by decide)]
  exact congrArg (finish s) (require_bind_of_not (by simp [h]) _ _ _)

/-- The committed configuration, with IDX as the number one below the output width (10_state.md R22). -/
theorem successCommit_setConfig {iw ow : BitVec 5} {n : Nat} (hn : 1 ≤ n) (how : BitVec.ofNat 5 n = ow) :
    successCommit (s.setConfig iw ow) =
      { s with
        cfgv := true, inW := iw, outW := ow, idx := BitVec.ofNat 5 (n - 1), acc := 0#31, err := .ok, errinfo := 0#32 } := by
  rw [← BitVec.ofNat_sub_ofNat_of_le n 1 (by decide) hn, how]
  rfl

/-! ### The statements -/

/-- Settles O16, one clause for each pair of a good or bad ARG0 with a good or bad ARG1. -/
theorem cfgConstructsOrLeavesNoInstance : Obligations.CfgConstructsOrLeavesNoInstance := by
  refine ⟨rfl, fun s => ⟨?good, ?badArg0, ?badArg1, ?badBoth⟩⟩
  case good =>
    rintro ⟨hlo0, hhi0, h1⟩
    rw [exec_cfg_of_widths ⟨hlo0, hhi0⟩ h1, successCommit_setConfig h1.1 (BitVec.ofNat_toNat 5 s.arg1), BitVec.ofNat_toNat,
      BitVec.ofNat_toNat]
  case badArg0 =>
    rintro ⟨h0, h1⟩
    exact exec_cfg_of_badWidthInfo (by simp [badWidthInfo, badWidth_eq_true.mpr h0, badWidth_eq_false.mpr h1]) (by decide)
  case badArg1 =>
    rintro ⟨hlo0, hhi0, h1⟩
    exact exec_cfg_of_badWidthInfo
      (by simp [badWidthInfo, badWidth_eq_false.mpr ⟨hlo0, hhi0⟩, badWidth_eq_true.mpr h1]) (by decide)
  case badBoth =>
    rintro ⟨h0, h1⟩
    exact exec_cfg_of_badWidthInfo (by simp [badWidthInfo, badWidth_eq_true.mpr h0, badWidth_eq_true.mpr h1]) (by decide)

/-- Settles O17: the invariant keeps the new output width, the old input width, above 0. -/
theorem invSwapsWidthsOrReportsNotConfigured : Obligations.InvSwapsWidthsOrReportsNotConfigured := by
  refine ⟨rfl, fun s h => ⟨fun hcfgv => ?_, exec_inv_of_unconfigured⟩⟩
  obtain ⟨hiw, -, -, -⟩ := h.configured hcfgv
  rw [exec_inv_of_configured hcfgv, successCommit_setConfig (n := s.inW.toNat) (by bv_omega) (by simp), hcfgv]

/-- Settles O18: each INV swaps the widths and restores the reset form, in which the invariant holds the re-packer from the
start. -/
theorem invIsAnInvolution : Obligations.InvIsAnInvolution := by
  constructor
  · intro s h hcfgv
    obtain ⟨-, -, hidx, hacc⟩ := h.configured hcfgv
    exact ⟨_, _, exec_inv_of_configured hcfgv, exec_inv_of_configured rfl, hcfgv.symm, rfl, rfl, hidx.symm, hacc.symm⟩
  · intro s a b halo hahi hblo hbhi
    exact ⟨_, _, _, exec_cfg_of_widths ⟨halo, hahi⟩ ⟨hblo, hbhi⟩, exec_inv_of_configured rfl,
      exec_cfg_of_widths ⟨hblo, hbhi⟩ ⟨halo, hahi⟩, rfl, rfl, rfl, rfl, rfl⟩

end Sys2Proof.Safety
end

section
/-! PROOFS. The conversion between equal widths (40_config.md R80, 41_transcode.md R96, corner cases): each value fills
exactly one output value. -/

namespace Sys2Proof.Machine

/-- The low `k + 1` bits of a value, as its bit `k` above the lower ones. -/
theorem toNat_mod_two_pow_succ (v : Word) (k : Nat) :
    v.toNat % 2 ^ (k + 1) = 2 ^ k * (v.getLsbD k).toNat + v.toNat % 2 ^ k := by
  rw [Nat.mod_pow_succ, ← Nat.toNat_testBit, BitVec.testBit_toNat, Nat.add_comm]

/-- Part 1 of a bit step adds `2^I · b` (41_transcode.md R90). -/
theorem placeBit_eq (b : Bool) (c : Cells) : placeBit b c = ⟨c.idx - 1, c.acc + 2 ^ c.idx.toNat * b.toNat⟩ := by
  cases b <;> simp [placeBit]

/-- When the low `k + 1` bits of a value come in at index `k`, they complete one output value: what was accumulated, with
those bits added below it. -/
theorem bitSteps_valueBits_of_idx (ow k a : Nat) (v : Word) :
    bitSteps ow (valueBits (k + 1) v) ⟨k, a⟩ = (resetForm ow, [BitVec.ofNat 32 (a + v.toNat % 2 ^ (k + 1))]) := by
  induction k generalizing a with
  | zero =>
    rw [valueBits, bitSteps_cons, bitStep_of_idx_zero rfl, placeBit_eq, toNat_mod_two_pow_succ]
    simp [valueBits, Nat.mod_one]
  | succ k ih =>
    have hplace : placeBit (v.getLsbD (k + 1)) ⟨(k + 1 : Nat), a⟩ = ⟨k, a + 2 ^ (k + 1) * (v.getLsbD (k + 1)).toNat⟩ := by
      simp [placeBit_eq]
    rw [valueBits, bitSteps_cons, bitStep_of_idx_pos (Int.natCast_succ_pos k), hplace, ih, toNat_mod_two_pow_succ v (k + 1),
      Nat.add_assoc]
    rfl

/-- From the reset form, a value in range at the output width is emitted as it is. -/
theorem valueStep_self {w : Nat} (hw : 1 ≤ w) {v : Word} (hv : v.toNat < 2 ^ w) :
    valueStep w w v (resetForm w) = (resetForm w, [v]) := by
  obtain ⟨k, rfl⟩ := Nat.exists_eq_add_of_le' hw
  have hreset : resetForm (k + 1) = ⟨k, 0⟩ := by simp [resetForm]
  rw [valueStep, hreset, bitSteps_valueBits_of_idx, Nat.mod_eq_of_lt hv, hreset]
  simp

theorem valueSteps_self {w : Nat} (hw : 1 ≤ w) {vs : List Word} (hvs : ∀ v ∈ vs, v.toNat < 2 ^ w) :
    valueSteps w w vs (resetForm w) = (resetForm w, vs) := by
  induction vs with
  | nil => rfl
  | cons v vs ih =>
    obtain ⟨hv, hrest⟩ := List.forall_mem_cons.mp hvs
    simp [valueSteps, valueStep_self hw hv, ih hrest]

/-- Settles O22: the steps end in reset form, so Flush appends nothing. -/
theorem equalWidthsConvertToThemselves : Obligations.EqualWidthsConvertToThemselves := by
  intro w vs hw _ hvs
  rw [convert, valueSteps_self hw hvs, flush_of_reset rfl]
  exact ⟨rfl, rfl⟩

end Sys2Proof.Machine
end

section
/-! PROOFS. The bit-serial conversion is the closed form (41_transcode.md R97), and what follows from it for the length and
the padding (R98) and for the inverse conversion (R100). -/

namespace Sys2Proof.Safety

open Sys2Proof.Machine

/-! ### One output value, bit by bit -/

/-- The bits of a field in order, the first one most significant. -/
def fieldBits (f : Nat → Bool) (start width : Nat) : List Bool := (List.range' start width).map f

@[simp] theorem fieldBits_zero (f : Nat → Bool) (start : Nat) : fieldBits f start 0 = [] := rfl

theorem fieldBits_add (f : Nat → Bool) (start p q : Nat) :
    fieldBits f start (p + q) = fieldBits f start p ++ fieldBits f (start + p) q := by
  simp [fieldBits, ← List.range'_append_1]

theorem fieldBits_succ (f : Nat → Bool) (start width : Nat) :
    fieldBits f start (width + 1) = fieldBits f start width ++ [f (start + width)] := fieldBits_add f start width 1

/-- The cells with the first `r` bits of an output value in place: the field of those bits, above the places still free. -/
def partialCells (f : Nat → Bool) (ow start r : Nat) : Cells := ⟨(ow : Int) - 1 - r, fieldValue f start r * 2 ^ (ow - r)⟩

@[simp] theorem partialCells_zero (f : Nat → Bool) (ow start : Nat) : partialCells f ow start 0 = resetForm ow := by
  simp [partialCells, resetForm, fieldValue]

/-- Placing the next bit of the field (41_transcode.md R90). -/
theorem placeBit_partialCells (f : Nat → Bool) {ow r : Nat} (start : Nat) (hr : r < ow) :
    placeBit (f (start + r)) (partialCells f ow start r) = partialCells f ow start (r + 1) := by
  obtain ⟨d, rfl⟩ := Nat.exists_eq_add_of_lt hr
  have hidx : ((r + d + 1 : Nat) : Int) - 1 - r = d := by omega
  have hfree : r + d + 1 - r = d + 1 := by omega
  have hfree' : r + d + 1 - (r + 1) = d := by omega
  rw [placeBit_eq]
  simp only [partialCells, fieldValue, hidx, hfree, hfree', Int.toNat_natCast, Cells.mk.injEq]
  exact ⟨by omega, by ring⟩

/-- As long as places are free, the bits of the field are accumulated and nothing is emitted. -/
theorem bitSteps_fieldBits_partial (f : Nat → Bool) {ow r : Nat} (start : Nat) (hr : r < ow) :
    bitSteps ow (fieldBits f start r) (resetForm ow) = (partialCells f ow start r, []) := by
  induction r with
  | zero => simp
  | succ r ih =>
    have hpos : 0 < (partialCells f ow start r).idx := by simp only [partialCells]; omega
    rw [fieldBits_succ, bitSteps_append, ih (by omega)]
    simp [bitSteps_cons, bitStep_of_idx_pos hpos, placeBit_partialCells f start (Nat.lt_of_succ_lt hr)]

/-- The `ow` bits of a field are emitted as its value (41_transcode.md R91). -/
theorem bitSteps_fieldBits (f : Nat → Bool) {ow : Nat} (start : Nat) (how : 1 ≤ ow) :
    bitSteps ow (fieldBits f start ow) (resetForm ow) = (resetForm ow, [BitVec.ofNat 32 (fieldValue f start ow)]) := by
  obtain ⟨r, rfl⟩ := Nat.exists_eq_add_of_le' how
  have hzero : (partialCells f (r + 1) start r).idx = 0 := by simp [partialCells]
  rw [fieldBits_succ, bitSteps_append, bitSteps_fieldBits_partial f start r.lt_succ_self]
  simp only [bitSteps_cons, bitStep_of_idx_zero hzero, placeBit_partialCells f start r.lt_succ_self]
  simp [partialCells]

/-! ### A run of output values -/

/-- The values of `q` consecutive fields of a stream, from its start. -/
def fieldValues (f : Nat → Bool) (ow q : Nat) : List Word :=
  (List.range q).map fun k => BitVec.ofNat 32 (fieldValue f (k * ow) ow)

theorem fieldValues_succ (f : Nat → Bool) (ow q : Nat) :
    fieldValues f ow (q + 1) = fieldValues f ow q ++ [BitVec.ofNat 32 (fieldValue f (q * ow) ow)] := by
  simp [fieldValues, List.range_succ]

theorem repacked_eq_fieldValues (iw ow : Nat) (vs : List Word) :
    repacked iw ow vs = fieldValues (streamBit iw vs) ow (outputLength iw ow vs.length) := rfl

/-- The bits of `q` whole fields are emitted as their values, and leave the reset form. -/
theorem bitSteps_fieldBits_full (f : Nat → Bool) {ow : Nat} (how : 1 ≤ ow) (q : Nat) :
    bitSteps ow (fieldBits f 0 (q * ow)) (resetForm ow) = (resetForm ow, fieldValues f ow q) := by
  induction q with
  | zero => simp [fieldValues]
  | succ q ih =>
    rw [Nat.succ_mul, fieldBits_add, bitSteps_append, ih, Nat.zero_add, bitSteps_fieldBits f _ how, fieldValues_succ]

/-- The first `n` bits of a stream emit its whole fields and leave the bits of the next one in the cells. -/
theorem bitSteps_fieldBits_of_reset (f : Nat → Bool) {ow : Nat} (how : 1 ≤ ow) (n : Nat) :
    bitSteps ow (fieldBits f 0 n) (resetForm ow) = (partialCells f ow (n / ow * ow) (n % ow), fieldValues f ow (n / ow)) := by
  have hsplit : fieldBits f 0 n = fieldBits f 0 (n / ow * ow) ++ fieldBits f (n / ow * ow) (n % ow) := by
    simpa only [Nat.zero_add, Nat.div_add_mod'] using fieldBits_add f 0 (n / ow * ow) (n % ow)
  rw [hsplit, bitSteps_append, bitSteps_fieldBits_full f how, bitSteps_fieldBits_partial f _ (Nat.mod_lt n how)]
  simp

/-! ### The closed form -/

/-- A value's bits are one field of the stream (20_memory.md R47). -/
theorem valueBits_eq_fieldBits (iw : Nat) {vs : List Word} {k : Nat} (hk : k < vs.length) :
    valueBits iw vs[k] = fieldBits (streamBit iw vs) (k * iw) iw := by
  apply List.ext_getElem
  · simp [fieldBits]
  · intro j hj _
    rw [length_valueBits] at hj
    simp [getElem_valueBits, fieldBits, streamBit_within hk hj]

/-- The bits of the first `n` values are the first `n·iw` bits of the stream. -/
theorem flatMap_take_valueBits (iw : Nat) {vs : List Word} {n : Nat} (hn : n ≤ vs.length) :
    (vs.take n).flatMap (valueBits iw) = fieldBits (streamBit iw vs) 0 (n * iw) := by
  induction n with
  | zero => simp
  | succ n ih =>
    rw [List.take_succ_eq_append_getElem hn, List.flatMap_append, ih (by omega), Nat.succ_mul, fieldBits_add, Nat.zero_add,
      ← valueBits_eq_fieldBits iw hn, List.flatMap_singleton]

/-- The bits that a conversion steps through are those of the stream (20_memory.md R47). -/
theorem stream_eq_fieldBits (iw : Nat) (vs : List Word) :
    vs.flatMap (valueBits iw) = fieldBits (streamBit iw vs) 0 (vs.length * iw) := by
  simpa only [List.take_length] using flatMap_take_valueBits iw (vs := vs) le_rfl

/-- The padding bits fill the last output value (41_transcode.md R98). -/
theorem paddingBits_eq {ow : Nat} (how : 1 ≤ ow) (iw n : Nat) :
    paddingBits iw ow n = if n * iw % ow = 0 then 0 else ow - n * iw % ow := by
  have hdiv := Nat.div_add_mod' (n * iw) ow
  rw [paddingBits, outputLength_eq how]
  split
  · rw [Nat.add_zero]
    omega
  · rw [Nat.succ_mul]
    omega

/-- Input and padding bits together fill the output values (41_transcode.md R97). -/
theorem outputLength_mul {ow : Nat} (how : 1 ≤ ow) (iw n : Nat) :
    outputLength iw ow n * ow = n * iw + paddingBits iw ow n := by
  have hdiv := Nat.div_add_mod' (n * iw) ow
  have hlt := Nat.mod_lt (n * iw) how
  rw [paddingBits_eq how, outputLength_eq how, Nat.add_mul]
  split <;> omega

theorem paddingBits_lt {ow : Nat} (how : 1 ≤ ow) (iw n : Nat) : paddingBits iw ow n < ow := by
  rw [paddingBits_eq how]
  split <;> omega

/-- The bits accumulated when the input ends are the whole field, since the rest of it is padding zeros
(41_transcode.md R97). -/
theorem partialCells_acc_of_false {f : Nat → Bool} {ow start r : Nat} (hr : r ≤ ow)
    (hf : ∀ j, start + r ≤ j → f j = false) : (partialCells f ow start r).acc = fieldValue f start ow := by
  have hzero : fieldValue f (start + r) (ow - r) = 0 := fieldValue_of_false fun j _ => hf _ (Nat.le_add_right _ j)
  have hsplit := fieldValue_add f start r (ow - r)
  rw [Nat.add_sub_cancel' hr, hzero] at hsplit
  exact hsplit.symm

/-- Convert is its closed form (41_transcode.md R97): the whole output values, and with a partial one in progress the value
that Flush completes with zeros. -/
theorem convert_eq {iw ow : Nat} (hiw : 1 ≤ iw) (how : 1 ≤ ow) (vs : List Word) :
    convert iw ow vs = ⟨repacked iw ow vs, paddingBits iw ow vs.length, resetForm ow⟩ := by
  have hlt := Nat.mod_lt (vs.length * iw) how
  have hdiv := Nat.div_add_mod' (vs.length * iw) ow
  rw [convert, valueSteps_eq_bitSteps, stream_eq_fieldBits, bitSteps_fieldBits_of_reset _ how, repacked_eq_fieldValues,
    outputLength_eq how, paddingBits_eq how]
  by_cases hr : vs.length * iw % ow = 0
  · rw [flush_of_reset (by simp [hr]), if_pos hr, if_pos hr, Nat.add_zero]
  · have hacc := partialCells_acc_of_false (f := streamBit iw vs) (start := vs.length * iw / ow * ow) hlt.le
      fun j hj => streamBit_beyond (hdiv ▸ hj) hiw
    rw [flush_of_partial (by simp only [partialCells]; omega), if_neg hr, if_neg hr, hacc, fieldValues_succ]
    simp only [partialCells, Conversion.mk.injEq, true_and, and_true]
    omega

/-- Settles O19, by the closed form of `convert`; that a value lies in range plays no part, since only its low bits are
stepped through. -/
theorem conversionMatchesClosedForm : Obligations.ConversionMatchesClosedForm := by
  intro iw ow vs hiw _ how _ _
  rw [convert_eq hiw how]
  exact ⟨rfl, rfl⟩

/-- Settles O20, by the closed form of `convert`. -/
theorem conversionLengthAndPadding : Obligations.ConversionLengthAndPadding := by
  intro iw ow vs hiw _ how _
  have hlt := Nat.mod_lt (vs.length * iw) how
  rw [convert_eq hiw how]
  refine ⟨length_repacked iw ow vs, ?_⟩
  simp only [paddingBits_eq how]
  split <;> omega

/-! ### The inverse conversion -/

/-- The output holds the bits of the input stream, followed by zeros (41_transcode.md R97). -/
theorem streamBit_repacked {iw ow : Nat} (hiw : 1 ≤ iw) (how : 1 ≤ ow) (how' : ow ≤ 32) (vs : List Word) :
    streamBit ow (repacked iw ow vs) = streamBit iw vs := by
  funext j
  by_cases hj : j < outputLength iw ow vs.length * ow
  · have hk : j / ow < (repacked iw ow vs).length := by rwa [length_repacked, Nat.div_lt_iff_lt_mul how]
    have hi : j % ow < ow := Nat.mod_lt j how
    have hplace : ow - 1 - j % ow < 32 := by omega
    rw [← Nat.div_add_mod' j ow, streamBit_within hk hi, ← testBit_fieldValue (streamBit iw vs) _ ow _ hi]
    simp only [repacked, List.getElem_map, List.getElem_range, BitVec.getLsbD_ofNat, hplace, decide_true, Bool.true_and]
  · have hin := outputLength_mul how iw vs.length
    rw [streamBit_beyond (by rw [length_repacked]; omega) how, streamBit_beyond (by omega) hiw]

/-- Zeros behind a sequence do not change its stream. -/
theorem streamBit_append_zeros (iw m : Nat) (vs : List Word) :
    streamBit iw (vs ++ List.replicate m 0#32) = streamBit iw vs := by
  funext j
  by_cases hj : j / iw < vs.length
  · simp [streamBit, List.getElem?_append_left hj]
  · rw [Nat.not_lt] at hj
    simp only [streamBit, List.getElem?_append_right hj, List.getElem?_eq_none hj, List.getElem?_replicate]
    by_cases hm : j / iw - vs.length < m <;> simp [hm]

/-- The closed form depends on the stream and on the output length only. -/
theorem repacked_congr {iw iw' ow : Nat} {vs ws : List Word} (hstream : streamBit iw vs = streamBit iw' ws)
    (hlen : outputLength iw ow vs.length = outputLength iw' ow ws.length) : repacked iw ow vs = repacked iw' ow ws := by
  rw [repacked, repacked, hstream, hlen]

/-- In equal widths there is one output value per input value. -/
theorem outputLength_self {w : Nat} (hw : 1 ≤ w) (n : Nat) : outputLength w w n = n := by
  simp [outputLength_eq hw, Nat.mul_div_cancel n hw]

/-- In equal widths the closed form is the identity on values in range. -/
theorem repacked_self {w : Nat} {vs : List Word} (hw : 1 ≤ w) (hw' : w ≤ 31) (hvs : ∀ v ∈ vs, v.toNat < 2 ^ w) :
    repacked w w vs = vs := by
  simpa only [convert_eq hw hw] using (equalWidthsConvertToThemselves w vs hw hw' hvs).1

/-- The length of the conversion back: the values of the input, and those that the padding bits fill or begin. -/
theorem outputLength_outputLength {a b : Nat} (ha : 1 ≤ a) (hb : 1 ≤ b) (n : Nat) :
    outputLength b a (outputLength a b n) = n + (paddingBits a b n + a - 1) / a := by
  have hsum : n * a + paddingBits a b n + a - 1 = paddingBits a b n + a - 1 + n * a := by omega
  rw [outputLength, outputLength_mul hb, hsum, Nat.add_mul_div_right _ _ ha, Nat.add_comm]

/-- Settles O21: the conversion back reads the stream of the input followed by zeros, at the input's own width. -/
theorem inverseConversionReturnsTheInput : Obligations.InverseConversionReturnsTheInput := by
  intro a b vs ha ha' hb hb' hvs
  simp only [convert_eq ha hb, convert_eq hb ha]
  have hlen := outputLength_outputLength ha hb vs.length
  have hpad := paddingBits_lt hb a vs.length
  have hmul := outputLength_mul hb a vs.length
  generalize hextra : (paddingBits a b vs.length + a - 1) / a = extra at hlen ⊢
  refine ⟨?out, ?pad, ?bound⟩
  case out =>
    have hzeros : ∀ v ∈ vs ++ List.replicate extra 0#32, v.toNat < 2 ^ a := by
      intro v hv
      rcases List.mem_append.mp hv with hv | hv
      · exact hvs v hv
      · simp [List.eq_of_mem_replicate hv]
    rw [← repacked_self ha ha' hzeros]
    apply repacked_congr
    · rw [streamBit_repacked ha hb (by omega), streamBit_append_zeros]
    · rw [length_repacked, hlen, outputLength_self ha, List.length_append, List.length_replicate]
  case pad =>
    rw [paddingBits, length_repacked, hlen, hmul, Nat.add_mul]
    omega
  case bound =>
    rw [← hextra]
    exact Nat.div_le_div_right (by omega)

end Sys2Proof.Safety
end

section
/-! PROOFS. The CONV command (41_transcode.md R96): its checks in their order, and from them what it commits, what it
reports and what it depends on. -/

namespace Sys2Proof.Machine

/-! ### Parts of a command -/

theorem ok_bind {α β : Type} (a : α) (f : α → Except Stop β) : (Except.ok a >>= f) = f a := rfl

theorem error_bind {α β : Type} (x : Stop) (f : α → Except Stop β) : (Except.error x >>= f) = .error x := rfl

/-- Reading depends on the elements read only. -/
theorem readElements_congr {m m' : Memory} {k n : Nat} (h : ∀ j, j < n → m'.get (k + j) = m.get (k + j)) :
    readElements m' k n = readElements m k n := by
  induction n generalizing k with
  | zero => rfl
  | succ n ih =>
    have hfirst : m'.get k = m.get k := h 0 n.succ_pos
    have hrest : readElements m' (k + 1) n = readElements m (k + 1) n :=
      ih fun j hj => by simpa only [Nat.add_assoc, Nat.add_comm 1] using h (j + 1) (Nat.succ_lt_succ hj)
    simp only [readElements, hfirst, hrest]

/-- The least value out of range is reported (41_transcode.md R94). -/
theorem requireInRange_of_least {iw k : Nat} {vs : List Word} (hk : k < vs.length) (hlarge : 2 ^ iw ≤ vs[k].toNat)
    (hleast : ∀ j, ∀ hj : j < k, vs[j].toNat < 2 ^ iw) :
    requireInRange iw vs = .error (.raise .outOfRange (BitVec.ofNat 32 k)) := by
  have hfirst : firstTooLarge iw 0 vs = some k := firstTooLarge_eq_some.mpr ⟨k, hk, k.zero_add.symm, hlarge, hleast⟩
  rw [requireInRange, hfirst]

/-- A run stored from element 0 on reads alike whatever it was stored over. -/
theorem Memory.get_setAll_zero_congr (m m' : Memory) {vs : List Word} {k : Nat} (hk : k < vs.length) :
    (m'.setAll 0 vs).get k = (m.setAll 0 vs).get k := by
  simpa only [Nat.zero_add] using (Memory.get_setAll_at vs m' 0 k hk).trans (Memory.get_setAll_at vs m 0 k hk).symm

/-- An error commit keeps the re-packer's cells, or clears them with the configuration (60_exceptions.md R152). -/
theorem errorCommit_idx (e : ErrorCode) (info : Word) (s : State) :
    (errorCommit e info s).idx = if e = .configurationError then 0#5 else s.idx := by
  unfold errorCommit
  split <;> simp

theorem errorCommit_acc (e : ErrorCode) (info : Word) (s : State) :
    (errorCommit e info s).acc = if e = .configurationError then 0#31 else s.acc := by
  unfold errorCommit
  split <;> simp

end Sys2Proof.Machine

namespace Sys2Proof.Safety

open Sys2Proof.Machine

variable {s u : State}

/-! ### The checks and the commit of CONV -/

/-- The input of CONV, once all its checks have passed (41_transcode.md R96); `exec_conv_eq` ties it to the command. -/
def checkedInput (s : State) : Except Stop (List Word) := do
  require (s.cfgv = true) .notConfigured 0#32
  require (s.arg0.toNat ≤ s.idepth.toNat) .lengthError s.arg0
  let vs ← inputElements s s.arg0.toNat
  requireInRange s.inW.toNat vs
  let length := outputLength s.inW.toNat s.outW.toNat s.arg0.toNat
  require (length ≤ s.odepth.toNat) .lengthError (lengthInfo length)
  return vs

/-- The commit of a CONV that succeeds on the input `vs`, in the closed form of the conversion (41_transcode.md R97). -/
def conversionCommit (s : State) (vs : List Word) : State :=
  { s with
    obuf := s.obuf.setAll 0 (repacked s.inW.toNat s.outW.toNat vs)
    outlen := BitVec.ofNat 32 (outputLength s.inW.toNat s.outW.toNat vs.length)
    pad := BitVec.ofNat 32 (paddingBits s.inW.toNat s.outW.toNat vs.length)
    idx := s.outW - 1#5, acc := 0#31, err := .ok, errinfo := 0#32 }

/-- CONV checks its input, then converts it and commits the output with the cells. -/
theorem exec_conv_eq (s : State) :
    exec .conv s = finish s (checkedInput s >>= fun vs =>
      let r := convert s.inW.toNat s.outW.toNat vs
      .ok (successCommit ((s.setOutput r.out (outputLength s.inW.toNat s.outW.toNat s.arg0.toNat) r.pad).setCells
        (BitVec.ofInt 5 r.cells.idx) (BitVec.ofNat 31 r.cells.acc)))) := by
  simp only [checkedInput, bind_assoc, pure_bind]
  rfl

theorem checkedInput_eq_ok {vs : List Word} :
    checkedInput s = .ok vs ↔
      s.cfgv = true ∧ s.arg0.toNat ≤ s.idepth.toNat ∧ inputElements s s.arg0.toNat = .ok vs ∧
      (∀ v ∈ vs, v.toNat < 2 ^ s.inW.toNat) ∧
      outputLength s.inW.toNat s.outW.toNat s.arg0.toNat ≤ s.odepth.toNat := by
  simp [checkedInput, bind_eq_ok, require_eq_ok, requireInRange_eq_ok, pure, Except.pure]

/-- CONV on an input that passes its checks: the widths of a configured block are positive, so `convert` is its closed
form. -/
theorem exec_conv_of_ok (h : Inv s) {vs : List Word} (hin : checkedInput s = .ok vs) :
    exec .conv s = .next (conversionCommit s vs) := by
  obtain ⟨hcfgv, -, hread, -, -⟩ := checkedInput_eq_ok.mp hin
  obtain ⟨hiw, how, -, -⟩ := h.configured hcfgv
  have hconvert := convert_eq (iw := s.inW.toNat) (ow := s.outW.toNat) (by bv_omega) (by bv_omega) vs
  rw [exec_conv_eq, hin, ok_bind, ← inputElements_length hread]
  simp only [hconvert, ofInt_resetForm_idx]
  rfl

/-- CONV on an input that fails a check. -/
theorem exec_conv_of_raise {e : ErrorCode} {info : Word} (hin : checkedInput s = .error (.raise e info)) :
    exec .conv s = .next (errorCommit e info s) := by
  rw [exec_conv_eq, hin, error_bind, finish]

theorem exec_conv_of_fault {f : Fault} (hin : checkedInput s = .error (.fault f)) : exec .conv s = .fault f := by
  rw [exec_conv_eq, hin, error_bind, finish]

theorem exec_conv_reported {e : ErrorCode} {info : Word} (he : e ≠ .configurationError)
    (hin : checkedInput s = .error (.raise e info)) : exec .conv s = .next (reported e info s) := by
  rw [exec_conv_of_raise hin, errorCommit_eq_reported he]

/-- An input held from element 0 on is read as it is. -/
theorem inputElements_of_holds {vs : List Word} {n : Nat} (hlen : vs.length = n) (hholds : Holds s.ibuf vs) :
    inputElements s n = .ok vs := readElements_eq_ok.mpr ⟨hlen, fun j hj => by rw [Nat.zero_add, hholds j hj]⟩

/-! ### What CONV commits and reports -/

/-- Settles O23: the input passes every check. -/
theorem convCommitsTheConversion : Obligations.ConvCommitsTheConversion := by
  intro s vs h hcfgv hn hlen hholds hrange hfit
  exact exec_conv_of_ok h (checkedInput_eq_ok.mpr ⟨hcfgv, hn, inputElements_of_holds hlen hholds, hrange, hlen ▸ hfit⟩)

/-- Settles O24, one clause for each check, with the checks before it passed. -/
theorem convReportsItsFirstFailingCheck : Obligations.ConvReportsItsFirstFailingCheck := by
  intro s _
  refine ⟨?unconfigured, ?inputLength, ?unwritten, ?range, ?outputLength⟩
  case unconfigured =>
    intro hcfgv
    apply exec_conv_reported (by decide)
    rw [checkedInput, require_bind_of_not (by simp [hcfgv])]
  case inputLength =>
    intro hcfgv hn
    apply exec_conv_reported (by decide)
    rw [checkedInput, require_bind_of hcfgv, require_bind_of_not (Nat.not_le.mpr hn)]
  case unwritten =>
    intro k hcfgv hn hk hnone hwritten
    have hread : inputElements s s.arg0.toNat = .error (.fault (.unwrittenInput k)) :=
      readElements_eq_error.mpr ⟨k, hk, by rw [Nat.zero_add], by rwa [Nat.zero_add], by simpa using hwritten⟩
    apply exec_conv_of_fault
    rw [checkedInput, require_bind_of hcfgv, require_bind_of hn, hread, error_bind]
  case range =>
    intro vs k hk hcfgv hn hlen hholds hlarge hleast
    apply exec_conv_reported (by decide)
    rw [checkedInput, require_bind_of hcfgv, require_bind_of hn, inputElements_of_holds hlen hholds, ok_bind,
      requireInRange_of_least hk hlarge hleast, error_bind]
  case outputLength =>
    intro vs hcfgv hn hlen hholds hrange hlong
    apply exec_conv_reported (by decide)
    rw [checkedInput, require_bind_of hcfgv, require_bind_of hn, inputElements_of_holds hlen hholds, ok_bind,
      requireInRange_eq_ok (u := ()).mpr hrange, ok_bind, ← hlen, require_bind_of_not (Nat.not_le.mpr hlong), lengthInfo]

/-! ### What CONV depends on -/

/-- Between operations the configuration fixes the re-packer's cells (10_state.md R24). -/
theorem Inv.cells_eq (hs : Inv s) (hu : Inv u) (hcfgv : u.cfgv = s.cfgv) (how : u.outW = s.outW) :
    u.idx = s.idx ∧ u.acc = s.acc := by
  cases hc : s.cfgv with
  | true =>
    obtain ⟨-, -, hidx, hacc⟩ := hs.configured hc
    obtain ⟨-, -, hidx', hacc'⟩ := hu.configured (hcfgv.trans hc)
    exact ⟨by rw [hidx, hidx', how], by rw [hacc, hacc']⟩
  | false =>
    obtain ⟨-, -, hidx, hacc⟩ := hs.unconfigured hc
    obtain ⟨-, -, hidx', hacc'⟩ := hu.unconfigured (hcfgv.trans hc)
    exact ⟨by rw [hidx, hidx'], by rw [hacc, hacc']⟩

/-- Settles O25: the checks answer alike, and each commit is made of what they answer. -/
theorem convDependsOnlyOnItsOperands : Obligations.ConvDependsOnlyOnItsOperands := by
  intro s u t hs hu hcfgv hiw how harg0 hidepth hodepth hibuf ht
  have hread : inputElements u s.arg0.toNat = inputElements s s.arg0.toNat :=
    readElements_congr fun j hj => by simpa using hibuf j hj
  have hin : checkedInput u = checkedInput s := by
    simp only [checkedInput, hcfgv, hiw, how, harg0, hidepth, hodepth, hread]
  cases hc : checkedInput s with
  | ok vs =>
    rw [exec_conv_of_ok hs hc] at ht
    cases ht
    refine ⟨_, exec_conv_of_ok hu (hin.trans hc), ?_⟩
    simp only [conversionCommit, hiw, how, true_and]
    intro k hk
    apply Memory.get_setAll_zero_congr
    rw [length_repacked]
    exact hk.trans_le (Nat.mod_le _ _)
  | error x =>
    cases x with
    | raise e info =>
      obtain ⟨hidx, hacc⟩ := hs.cells_eq hu hcfgv how
      rw [exec_conv_of_raise hc] at ht
      cases ht
      refine ⟨_, exec_conv_of_raise (hin.trans hc), ?_⟩
      simp [errorCommit_err, errorCommit_idx, errorCommit_acc, hidx, hacc]
    | fault f =>
      rw [exec_conv_of_fault hc] at ht
      cases ht

end Sys2Proof.Safety
end

section
/-! PROOFS. The mapper (42_alphabet.md R112 to R118): the two maps read off the table of R113, that they undo each
other, and what MAPE and MAPD answer. -/

namespace Sys2Proof.Safety

open Sys2Proof.Machine

/-! ### The walks and the table -/

/-- The forward walk gives the table's code points, and none past sextet 63 (42_alphabet.md R112, R113). -/
theorem walkForward_eq_some {v c : Nat} : walkForward alphabetRom v = some c ↔ v < 64 ∧ c = alphabetCode v := by
  rw [walkForward_alphabetRom]
  split_ifs <;> simp only [Option.some.injEq, false_iff, alphabetCode] <;> split_ifs <;> omega

/-- The reverse search finds the one sextet with a code point, if there is one (42_alphabet.md R113, R114). -/
theorem walkReverse_eq_some {c v : Nat} : walkReverse alphabetRom 0 c = some v ↔ v < 64 ∧ c = alphabetCode v := by
  rw [walkReverse_alphabetRom]
  split_ifs <;> simp only [Option.some.injEq, false_iff, alphabetCode] <;> split_ifs <;> omega

/-- Different sextets have different code points: the reverse search answers only one of them. -/
theorem alphabetCode_injOn {v w : Nat} (hv : v < 64) (hw : w < 64) (h : alphabetCode v = alphabetCode w) : v = w :=
  Option.some.inj ((walkReverse_eq_some.mpr ⟨hv, rfl⟩).symm.trans (walkReverse_eq_some.mpr ⟨hw, h⟩))

/-- A code point of the table fits an element whole. -/
theorem ofNat_alphabetCode_toNat (v : Nat) : (BitVec.ofNat 32 (alphabetCode v)).toNat = alphabetCode v := by
  rw [BitVec.toNat_ofNat, Nat.mod_eq_of_lt]
  unfold alphabetCode
  split_ifs <;> omega

theorem alphabetChar_toNat (v : Word) : (alphabetChar v).toNat = alphabetCode v.toNat :=
  ofNat_alphabetCode_toNat v.toNat

/-! ### The two maps -/

theorem mapE_eq_map (v : Word) : mapE v = (walkForward alphabetRom v.toNat).map (BitVec.ofNat 32) := by
  unfold mapE
  cases walkForward alphabetRom v.toNat <;> rfl

theorem mapD_eq_map (c : Word) : mapD c = (walkReverse alphabetRom 0 c.toNat).map (BitVec.ofNat 32) := by
  unfold mapD
  cases walkReverse alphabetRom 0 c.toNat <;> rfl

theorem mapE_eq_some {v c : Word} : mapE v = some c ↔ v.toNat < 64 ∧ c = alphabetChar v := by
  simp only [mapE_eq_map, Option.map_eq_some_iff, walkForward_eq_some, alphabetChar, and_assoc, exists_and_left,
    exists_eq_left, eq_comm (a := c)]

theorem mapE_eq_none {v : Word} : mapE v = none ↔ 64 ≤ v.toNat := by
  simp [Option.eq_none_iff_forall_ne_some, mapE_eq_some]

/-- The sextet of a code point of the table. -/
theorem mapD_of_code {c : Word} {v : Nat} (hv : v < 64) (hc : c.toNat = alphabetCode v) :
    mapD c = some (BitVec.ofNat 32 v) := by
  rw [mapD_eq_map, walkReverse_eq_some.mpr ⟨hv, hc⟩, Option.map_some]

theorem mapD_eq_some {c v : Word} : mapD c = some v ↔ v.toNat < 64 ∧ c = alphabetChar v := by
  constructor
  · intro h
    rw [mapD_eq_map, Option.map_eq_some_iff] at h
    obtain ⟨n, hwalk, rfl⟩ := h
    obtain ⟨hn, hc⟩ := walkReverse_eq_some.mp hwalk
    have hv : (BitVec.ofNat 32 n).toNat = n := by rw [BitVec.toNat_ofNat, Nat.mod_eq_of_lt (by omega)]
    exact ⟨by rwa [hv], BitVec.eq_of_toNat_eq (by rw [alphabetChar_toNat, hv, hc])⟩
  · rintro ⟨hv, rfl⟩
    rw [mapD_of_code hv (alphabetChar_toNat v), BitVec.ofNat_toNat, BitVec.setWidth_eq]

theorem mapD_eq_none {c : Word} : mapD c = none ↔ ∀ v, v < 64 → c.toNat ≠ alphabetCode v := by
  rw [mapD_eq_map, Option.map_eq_none_iff, Option.eq_none_iff_forall_ne_some]
  simp only [ne_eq, walkReverse_eq_some, not_and]

/-- The two maps are one relation between sextets and characters, read in its two directions (42_alphabet.md R118). -/
theorem mapD_eq_some_iff_mapE {c v : Word} : mapD c = some v ↔ mapE v = some c :=
  mapD_eq_some.trans mapE_eq_some.symm

/-! ### The characters of the alphabet -/

/-- The 64 characters in the order of their sextets (42_alphabet.md R113); `mapD_isSome_iff` ties it to MapD. -/
def alphabetChars : List Word := (List.range 64).map fun v => BitVec.ofNat 32 (alphabetCode v)

theorem alphabetChars_nodup : alphabetChars.Nodup := by
  refine List.nodup_range.map_on fun v hv w hw h => ?_
  rw [List.mem_range] at hv hw
  exact alphabetCode_injOn hv hw (by simpa only [ofNat_alphabetCode_toNat] using congrArg BitVec.toNat h)

theorem mem_alphabetChars {c : Word} : c ∈ alphabetChars ↔ ∃ v, v < 64 ∧ c.toNat = alphabetCode v := by
  simp only [alphabetChars, List.mem_map, List.mem_range, ← BitVec.toNat_inj, ofNat_alphabetCode_toNat,
    eq_comm (a := c.toNat)]

theorem mapD_isSome_iff {c : Word} : (mapD c).isSome ↔ c ∈ alphabetChars := by
  simp [Option.isSome_iff_ne_none, mapD_eq_none, mem_alphabetChars]

/-- Settles O28: both maps are the one relation of `mapD_eq_some_iff_mapE`, and MapD succeeds on `alphabetChars`. -/
theorem mapperMapsAreInverse : Obligations.MapperMapsAreInverse := by
  refine ⟨fun v hv => ?roundTrip, fun c v => mapD_eq_some_iff_mapE.mp,
    alphabetChars, alphabetChars_nodup, ?length, fun c => mapD_isSome_iff⟩
  case roundTrip =>
    have hmap : mapE v = some (alphabetChar v) := mapE_eq_some.mpr ⟨hv, rfl⟩
    exact ⟨alphabetChar v, hmap, mapD_eq_some_iff_mapE.mpr hmap⟩
  case length =>
    rw [alphabetChars, List.length_map, List.length_range]

/-! ### The commands -/

section
variable {s : State}

theorem exec_mape_eq (s : State) :
    exec .mape s = finish s (charOf s.arg0 >>= fun c => .ok (successCommit (s.setResult c))) := rfl

theorem exec_mapd_eq (s : State) :
    exec .mapd s = finish s (sextetOf s.arg0 0#32 >>= fun v => .ok (successCommit (s.setResult v))) := rfl

/-- MAPE commits the character of its operand (42_alphabet.md R115). -/
theorem exec_mape_of_some {c : Word} (h : mapE s.arg0 = some c) :
    exec .mape s = .next (successCommit (s.setResult c)) := by
  rw [exec_mape_eq, charOf_eq_ok.mpr h, ok_bind, finish]

/-- MAPE reports an operand without a character (42_alphabet.md R116). -/
theorem exec_mape_of_none (h : mapE s.arg0 = none) : exec .mape s = .next (reported .outOfRange 0#32 s) := by
  rw [exec_mape_eq, charOf_eq_error.mpr ⟨h, rfl⟩, error_bind, finish, errorCommit_eq_reported (by decide)]

/-- MAPD commits the sextet of its operand (42_alphabet.md R117). -/
theorem exec_mapd_of_some {v : Word} (h : mapD s.arg0 = some v) :
    exec .mapd s = .next (successCommit (s.setResult v)) := by
  rw [exec_mapd_eq, sextetOf_eq_ok.mpr h, ok_bind, finish]

/-- MAPD reports an operand outside the alphabet (42_alphabet.md R117). -/
theorem exec_mapd_of_none (h : mapD s.arg0 = none) : exec .mapd s = .next (reported .invalidCharacter 0#32 s) := by
  rw [exec_mapd_eq, sextetOf_eq_error.mpr ⟨h, rfl⟩, error_bind, finish, errorCommit_eq_reported (by decide)]

end

/-- Settles O26: MapE is the table on both sides of 64. -/
theorem mapeGivesTheAlphabetCharacter : Obligations.MapeGivesTheAlphabetCharacter :=
  ⟨rfl, fun _ =>
    ⟨fun h => exec_mape_of_some (mapE_eq_some.mpr ⟨h, rfl⟩), fun h => exec_mape_of_none (mapE_eq_none.mpr h)⟩⟩

/-- Settles O27: MapD is the table read backwards. -/
theorem mapdGivesTheSextet : Obligations.MapdGivesTheSextet :=
  ⟨rfl, fun _ =>
    ⟨fun _ hv hc => exec_mapd_of_some (mapD_of_code hv hc), fun h => exec_mapd_of_none (mapD_eq_none.mpr h)⟩⟩

end Sys2Proof.Safety
end

section
/-! PROOFS. The base-64 text and the octets of a text in closed form (43_codec.md R131 to R136): lengths, padding, the
characters of a text, and decoding as the inverse of encoding (R137). -/

namespace Sys2Proof.Safety

open Sys2Proof.Machine

/-! ### Lengths and padding -/

/-- The padding of an encoding depends on n mod 3 only (43_codec.md R132). -/
theorem paddingBits_encode (n : Nat) : paddingBits 8 6 n = textPadding n := by
  rw [paddingBits_eq (by decide), textPadding]
  split_ifs <;> omega

/-- The conversion of an encoding (43_codec.md R131). -/
theorem convert_encode (vs : List Word) : convert 8 6 vs = ⟨repacked 8 6 vs, textPadding vs.length, resetForm 6⟩ := by
  rw [convert_eq (by decide) (by decide), paddingBits_encode]

/-- The sextets of an encoding and the padding characters together are its text (43_codec.md R133). -/
theorem outputLength_encode_add (n : Nat) : outputLength 8 6 n + textPadding n / 2 = textLength n := by
  unfold outputLength textPadding textLength
  split_ifs <;> omega

/-- The padding of a decoding (41_transcode.md R97). -/
theorem paddingBits_decode (m : Nat) : paddingBits 6 8 m = (8 - 6 * m % 8) % 8 := by
  rw [paddingBits_eq (by decide)]
  split <;> omega

/-- The conversion of a decoding (43_codec.md R134). -/
theorem convert_decode (sx : List Word) :
    convert 6 8 sx = ⟨repacked 6 8 sx, (8 - 6 * sx.length % 8) % 8, resetForm 8⟩ := by
  rw [convert_eq (by decide) (by decide), paddingBits_decode]

/-- The sextets of `n` octets hold `n` whole octets. -/
theorem octets_of_outputLength_encode (n : Nat) : 6 * outputLength 8 6 n / 8 = n := by
  unfold outputLength
  omega

@[simp] theorem length_textOf (vs : List Word) : (textOf vs).length = textLength vs.length := by
  simp [textOf, outputLength_encode_add]

@[simp] theorem length_octetsOf (sx : List Word) : (octetsOf sx).length = 6 * sx.length / 8 := by
  simp only [octetsOf, List.length_take, length_repacked, outputLength]
  omega

/-- Dropping the partial last value of a decoding, if there is one, leaves its whole octets (43_codec.md R136). -/
theorem dropPartial_eq_octetsOf (sx : List Word) :
    (if (8 - 6 * sx.length % 8) % 8 > 0 then (repacked 6 8 sx).dropLast else repacked 6 8 sx) = octetsOf sx := by
  have hlen : outputLength 6 8 sx.length = (sx.length * 6 + 7) / 8 := rfl
  rw [octetsOf]
  split
  next hpad =>
    have hpartial : 6 * sx.length % 8 ≠ 0 := fun h => by simp [h] at hpad
    rw [List.dropLast_eq_take, length_repacked]
    congr 1
    omega
  next => rw [List.take_of_length_le (by rw [length_repacked]; omega)]

/-! ### Characters -/

/-- The values of a conversion lie below `2^ow` (41_transcode.md R97). -/
theorem toNat_lt_of_mem_repacked {iw ow : Nat} {vs : List Word} {v : Word} (h : v ∈ repacked iw ow vs) :
    v.toNat < 2 ^ ow := by
  obtain ⟨k, -, rfl⟩ := List.mem_map.mp h
  rw [BitVec.toNat_ofNat]
  exact (Nat.mod_le _ _).trans_lt (fieldValue_lt _ _ _)

/-- No character of the alphabet is the padding character (10_state.md R29). -/
theorem alphabetChar_ne_padChar (v : Word) : alphabetChar v ≠ padChar := by
  intro h
  have hcode : alphabetCode v.toNat = 0x3D := (alphabetChar_toNat v).symm.trans (congrArg BitVec.toNat h)
  unfold alphabetCode at hcode
  split_ifs at hcode <;> omega

/-- Sextets map to their characters (42_alphabet.md R112). -/
theorem charsOf_of_sextets {xs : List Word} (h : ∀ v ∈ xs, v.toNat < 64) : charsOf xs = .ok (xs.map alphabetChar) := by
  rw [charsOf_eq_ok, List.map_map]
  exact List.map_congr_left fun v hv => mapE_eq_some.mpr ⟨h v hv, rfl⟩

/-- The padding characters of a text are the elements behind its sextets (43_codec.md R131). -/
theorem getElem_textOf_eq_padChar_iff {vs : List Word} {k : Nat} (hk : k < (textOf vs).length) :
    (textOf vs)[k] = padChar ↔ outputLength 8 6 vs.length ≤ k := by
  have hlen : ((repacked 8 6 vs).map alphabetChar).length = outputLength 8 6 vs.length := by
    rw [List.length_map, length_repacked]
  by_cases hchar : k < outputLength 8 6 vs.length
  · simp only [textOf, List.getElem_append_left (hlen ▸ hchar), List.getElem_map, alphabetChar_ne_padChar, false_iff]
    omega
  · rw [Nat.not_lt] at hchar
    simp only [textOf, List.getElem_append_right (hlen ▸ hchar), List.getElem_replicate, hchar, iff_true]
    rfl

/-- A buffer that holds the text of some octets holds a text of their sextets, which B64D scans (43_codec.md R135). -/
theorem textHolds_of_holds_textOf {m : Memory} {vs : List Word} (h : Holds m (textOf vs)) :
    TextHolds m (textLength vs.length) (repacked 8 6 vs) := by
  have hlen := outputLength_encode_add vs.length
  refine ⟨fun v hv => toNat_lt_of_mem_repacked hv, fun k hk => ?_, ?_⟩
  · rw [h k (by simp at hk ⊢; omega)]
    simp only [textOf, List.getElem_append_left hk]
  · rw [length_repacked]
    by_cases hpad : textPadding vs.length / 2 = 0
    · exact .inl (by omega)
    · have hlt : outputLength 8 6 vs.length < (textOf vs).length := by rw [length_textOf]; omega
      exact .inr ⟨by omega, (h _ hlt).trans (congrArg some ((getElem_textOf_eq_padChar_iff hlt).mpr le_rfl))⟩

/-- The whole octets of the sextets of some octets are those octets (43_codec.md R137): the conversion back returns them,
followed by zeros (41_transcode.md R100). -/
theorem octetsOf_repacked {vs : List Word} (h : ∀ v ∈ vs, v.toNat < 256) : octetsOf (repacked 8 6 vs) = vs := by
  have hback := (inverseConversionReturnsTheInput 8 6 vs (by decide) (by decide) (by decide) (by decide) h).1
  simp only [convert_encode, convert_decode] at hback
  rw [octetsOf, hback, length_repacked, octets_of_outputLength_encode, List.take_left]

end Sys2Proof.Safety
end

section
/-! PROOFS. The scan of a text (43_codec.md R134, R135): it maps the characters in front of it one by one, and reads
nothing behind a padding character. -/

namespace Sys2Proof.Safety

open Sys2Proof.Machine

variable {m : Memory}

/-- Over the characters of some sextets the scan answers them, and goes on behind. -/
theorem scanText_chars {sx : List Word} {k : Nat} (hsx : ∀ v ∈ sx, v.toNat < 64)
    (hget : ∀ j, ∀ h : j < sx.length, m.get (k + j) = some (alphabetChar sx[j])) (n : Nat) :
    scanText m k (sx.length + n) = (sx ++ ·) <$> scanText m (k + sx.length) n := by
  induction sx generalizing k with
  | nil => simp
  | cons v sx ih =>
    have hfirst : m.get k = some (alphabetChar v) := hget 0 (Nat.succ_pos _)
    have hmap : sextetOf (alphabetChar v) (BitVec.ofNat 32 k) = .ok v :=
      sextetOf_eq_ok.mpr (mapD_eq_some.mpr ⟨hsx v List.mem_cons_self, rfl⟩)
    have hrest := ih (k := k + 1) (fun w hw => hsx w (List.mem_cons_of_mem v hw)) fun j hj => by
      simpa only [Nat.add_assoc, Nat.add_comm 1, List.getElem_cons_succ] using hget (j + 1) (Nat.succ_lt_succ hj)
    have hlen : (v :: sx).length + n = sx.length + n + 1 := by simp only [List.length_cons]; omega
    have hend : k + (v :: sx).length = k + 1 + sx.length := by simp only [List.length_cons]; omega
    rw [hlen, hend, scanText_char hfirst (alphabetChar_ne_padChar v), hmap, ok_bind, hrest]
    cases scanText m (k + 1 + sx.length) n <;> rfl

/-- The same for a text that a buffer holds from element 0 on. -/
theorem scanText_of_holds {sx : List Word} (hsx : ∀ v ∈ sx, v.toNat < 64) (hholds : Holds m (sx.map alphabetChar))
    (n : Nat) : scanText m 0 (sx.length + n) = (sx ++ ·) <$> scanText m sx.length n := by
  have hget : ∀ j, ∀ h : j < sx.length, m.get (0 + j) = some (alphabetChar sx[j]) := fun j hj => by
    rw [Nat.zero_add, hholds j (by rwa [List.length_map]), List.getElem_map]
  simpa only [Nat.zero_add] using scanText_chars hsx hget n

/-- A text scans to its sextets, whether its length or a padding character ends it. -/
theorem scanText_of_textHolds {n : Nat} {sx : List Word} (h : TextHolds m n sx) : scanText m 0 n = .ok sx := by
  obtain ⟨hsx, hholds, rfl | ⟨hlt, hpad⟩⟩ := h
  · have hscan := scanText_of_holds hsx hholds 0
    simpa using hscan
  · obtain ⟨r, rfl⟩ := Nat.exists_eq_add_of_lt hlt
    rw [Nat.add_assoc, scanText_of_holds hsx hholds, scanText_padChar hpad]
    simp

/-- Where the scan stops behind some characters, the whole scan stops. -/
theorem scanText_of_stop {sx : List Word} {n : Nat} {e : Stop} (hlt : sx.length < n) (hsx : ∀ v ∈ sx, v.toNat < 64)
    (hholds : Holds m (sx.map alphabetChar)) (hstop : ∀ r, scanText m sx.length (r + 1) = .error e) :
    scanText m 0 n = .error e := by
  obtain ⟨r, rfl⟩ := Nat.exists_eq_add_of_lt hlt
  rw [Nat.add_assoc, scanText_of_holds hsx hholds, hstop]
  rfl

/-- Two buffers that agree up to a padding character scan alike (43_codec.md R135). -/
theorem scanText_congr_of_padChar {m' : Memory} {k j : Nat} (hpad : m.get (k + j) = some padChar)
    (h : ∀ i, i ≤ j → m'.get (k + i) = m.get (k + i)) (n : Nat) : scanText m' k n = scanText m k n := by
  induction n generalizing k j with
  | zero => rfl
  | succ n ih =>
    have hfirst : m'.get k = m.get k := h 0 j.zero_le
    cases hc : m.get k with
    | none => rw [scanText_unwritten hc, scanText_unwritten (hfirst.trans hc)]
    | some c =>
      by_cases hp : c = padChar
      · subst hp
        rw [scanText_padChar hc, scanText_padChar (hfirst.trans hc)]
      · cases j with
        | zero => exact absurd (Option.some.inj (hc.symm.trans hpad)) hp
        | succ j =>
          have hrest : scanText m' (k + 1) n = scanText m (k + 1) n :=
            ih (by simpa only [Nat.add_assoc, Nat.add_comm 1] using hpad) fun i hi => by
              simpa only [Nat.add_assoc, Nat.add_comm 1] using h (i + 1) (Nat.succ_le_succ hi)
          rw [scanText_char hc hp, scanText_char (hfirst.trans hc) hp, hrest]

end Sys2Proof.Safety
end

section
/-! PROOFS. The codec commands (43_codec.md R130 to R137): the checks of B64E and B64D in their order, each command as its
checked input followed by a commit in closed form, and from that what they commit, report and depend on. -/

namespace Sys2Proof.Machine

/-! ### A command as a checked input and a commit -/

section
variable {α : Type} {s : State} {x : Except Stop α}

theorem finish_bind_of_ok {a : α} (h : x = .ok a) (f : α → State) :
    finish s (x >>= fun a => .ok (f a)) = .next (f a) := by
  rw [h, ok_bind, finish]

theorem finish_bind_of_raise {e : ErrorCode} {info : Word} (h : x = .error (.raise e info))
    (f : α → Except Stop State) : finish s (x >>= f) = .next (errorCommit e info s) := by
  rw [h, error_bind, finish]

theorem finish_bind_of_fault {r : Fault} (h : x = .error (.fault r)) (f : α → Except Stop State) :
    finish s (x >>= f) = .fault r := by
  rw [h, error_bind, finish]

/-- A command whose commits go along with an update `g` of the state does on the updated state what it does on the state,
updated. -/
theorem finish_bind_update {g : State → State} {f f' : α → State} (hcommit : ∀ a, f' a = g (f a))
    (herror : ∀ e info, x = .error (.raise e info) → errorCommit e info (g s) = g (errorCommit e info s)) :
    (∀ t, finish s (x >>= fun a => .ok (f a)) = .next t → finish (g s) (x >>= fun a => .ok (f' a)) = .next (g t)) ∧
    (∀ r, finish s (x >>= fun a => .ok (f a)) = .fault r → finish (g s) (x >>= fun a => .ok (f' a)) = .fault r) := by
  cases hx : x with
  | ok a =>
    refine ⟨fun t ht => ?_, fun r hr => nomatch hr⟩
    cases ht
    exact congrArg _ (hcommit a)
  | error stop =>
    cases stop with
    | raise e info =>
      refine ⟨fun t ht => ?_, fun r hr => nomatch hr⟩
      cases ht
      exact congrArg _ (herror e info hx)
    | fault r => exact ⟨fun t ht => (nomatch ht), fun _ hr => hr⟩

end

end Sys2Proof.Machine

namespace Sys2Proof.Safety

open Sys2Proof.Machine

variable {s : State}

theorem finish_bind_reported {α : Type} {x : Except Stop α} {e : ErrorCode} {info : Word}
    (he : e ≠ .configurationError) (h : x = .error (.raise e info)) (f : α → Except Stop State) :
    finish s (x >>= f) = .next (reported e info s) := by
  rw [finish_bind_of_raise h, errorCommit_eq_reported he]

/-- Reading the input elements faults at the least unwritten one (70_reset_and_hazards.md R181). -/
theorem inputElements_of_unwritten {n k : Nat} (hk : k < n) (hnone : s.ibuf.get k = none)
    (hwritten : ∀ j, j < k → (s.ibuf.get j).isSome) : inputElements s n = .error (.fault (.unwrittenInput k)) :=
  readElements_eq_error.mpr ⟨k, hk, by rw [Nat.zero_add], by rwa [Nat.zero_add], by simpa using hwritten⟩

/-! ### The checks and the commits -/

/-- The octets of a B64E, once all its checks have passed (43_codec.md R131); `exec_b64e_eq` ties it to the command. -/
def checkedOctets (s : State) : Except Stop (List Word) := do
  require (s.arg0.toNat ≤ s.idepth.toNat) .lengthError s.arg0
  let vs ← inputElements s s.arg0.toNat
  requireInRange 8 vs
  require (textLength vs.length ≤ s.odepth.toNat) .lengthError (lengthInfo (textLength vs.length))
  return vs

/-- The commit of a B64E that succeeds on these octets. -/
def textCommit (s : State) (vs : List Word) : State :=
  { s with
    obuf := s.obuf.setAll 0 (textOf vs), outlen := BitVec.ofNat 32 (textLength vs.length)
    pad := BitVec.ofNat 32 (textPadding vs.length), err := .ok, errinfo := 0#32 }

/-- The sextets of a B64D, once all its checks have passed (43_codec.md R134); `exec_b64d_eq` ties it to the command. -/
def checkedSextets (s : State) : Except Stop (List Word) := do
  require (s.arg0.toNat ≤ s.idepth.toNat) .lengthError s.arg0
  let sx ← scanText s.ibuf 0 s.arg0.toNat
  require (6 * sx.length / 8 ≤ s.odepth.toNat) .lengthError (lengthInfo (6 * sx.length / 8))
  return sx

/-- The commit of a B64D that succeeds on these sextets. -/
def octetsCommit (s : State) (sx : List Word) : State :=
  { s with
    obuf := s.obuf.setAll 0 (octetsOf sx), outlen := BitVec.ofNat 32 (6 * sx.length / 8)
    pad := BitVec.ofNat 32 ((8 - 6 * sx.length % 8) % 8), err := .ok, errinfo := 0#32 }

/-- B64E checks its octets, then commits their text: the sextets of a conversion always map (43_codec.md R131). -/
theorem exec_b64e_eq (s : State) : exec .b64e s = finish s (checkedOctets s >>= fun vs => .ok (textCommit s vs)) := by
  have hmain : ∀ vs, charsOf (repacked 8 6 vs) = .ok ((repacked 8 6 vs).map alphabetChar) :=
    fun vs => charsOf_of_sextets fun v hv => toNat_lt_of_mem_repacked hv
  have htext : ∀ vs, (repacked 8 6 vs).map alphabetChar ++ List.replicate (textPadding vs.length / 2) padChar = textOf vs :=
    fun vs => rfl
  show execB64e s = _
  simp only [execB64e, checkedOctets, octetWidth, sextetWidth, convert_encode, hmain, ok_bind, htext, length_textOf,
    bind_assoc, pure_bind]
  rfl

/-- B64D checks its sextets, then commits their whole octets (43_codec.md R134, R136). -/
theorem exec_b64d_eq (s : State) : exec .b64d s = finish s (checkedSextets s >>= fun sx => .ok (octetsCommit s sx)) := by
  show execB64d s = _
  simp only [execB64d, checkedSextets, octetWidth, sextetWidth, convert_decode, dropPartial_eq_octetsOf, length_octetsOf,
    bind_assoc, pure_bind]
  rfl

theorem checkedOctets_eq_ok {vs : List Word} :
    checkedOctets s = .ok vs ↔
      s.arg0.toNat ≤ s.idepth.toNat ∧ inputElements s s.arg0.toNat = .ok vs ∧ (∀ v ∈ vs, v.toNat < 256) ∧
      textLength vs.length ≤ s.odepth.toNat := by
  simp [checkedOctets, bind_eq_ok, require_eq_ok, requireInRange_eq_ok, pure, Except.pure]

theorem checkedSextets_eq_ok {sx : List Word} :
    checkedSextets s = .ok sx ↔
      s.arg0.toNat ≤ s.idepth.toNat ∧ scanText s.ibuf 0 s.arg0.toNat = .ok sx ∧
      6 * sx.length / 8 ≤ s.odepth.toNat := by
  simp [checkedSextets, bind_eq_ok, require_eq_ok, pure, Except.pure]

/-- An error commit never reports the code of success, since it enters the history and a success does not
(60_exceptions.md R152, R153). -/
theorem error_ne_ok {i : Instr} {e : ErrorCode} {info : Word} (h : exec i s = .next (errorCommit e info s)) : e ≠ .ok := by
  obtain ⟨-, -, -, -, -, -, -, hevents⟩ := commandsLeaveOperandsAndInput i s _ h
  rintro rfl
  simp [errorCommit_err, errorCommit_events] at hevents

/-- What the codec commands report is no CONFIGURATION_ERROR (60_exceptions.md R150), so their error commits keep the
configuration. -/
theorem codec_err_ne_configurationError {i : Instr} (hi : i = .b64e ∨ i = .b64d) {t : State}
    (h : exec i s = .next t) : t.err ≠ .configurationError := by
  rcases exec_ends h with ⟨u, _, rfl⟩ | ⟨e, info, hr, rfl⟩
  · simp
  · rw [errorCommit_err]
    rintro rfl
    rcases hi with rfl | rfl <;> simp [Raises] at hr

/-- A buffer holds a sequence that was stored from element 0 on (20_memory.md R53). -/
theorem holds_setAll_zero (m : Memory) (vs : List Word) : Holds (m.setAll 0 vs) vs := fun k hk => by
  simpa only [Nat.zero_add] using Memory.get_setAll_at vs m 0 k hk

/-- A length within OBUF's depth fits its register whole. -/
theorem toNat_ofNat_of_le_odepth {n : Nat} (h : n ≤ s.odepth.toNat) : (BitVec.ofNat 32 n).toNat = n := by
  rw [BitVec.toNat_ofNat, Nat.mod_eq_of_lt (h.trans_lt s.odepth.isLt)]

/-- A B64E that succeeds has passed its checks (60_exceptions.md R160). -/
theorem checkedOctets_of_success {t : State} (h : exec .b64e s = .next t) (hok : t.err = .ok) :
    ∃ vs, checkedOctets s = .ok vs ∧ t = textCommit s vs := by
  rw [exec_b64e_eq] at h
  rcases finish_eq_next.mp h with hr | ⟨e, info, hr, rfl⟩
  · obtain ⟨vs, hvs, ht⟩ := bind_eq_ok.mp hr
    cases ht
    exact ⟨vs, hvs, rfl⟩
  · exact absurd ((errorCommit_err e info s).symm.trans hok) (error_ne_ok (exec_b64e_eq s ▸ h))

/-! ### Encoding -/

/-- Settles O29: the octets pass every check. -/
theorem b64eCommitsTheText : Obligations.B64eCommitsTheText := by
  intro s vs hn hlen hholds hrange hfit
  rw [exec_b64e_eq]
  exact finish_bind_of_ok (checkedOctets_eq_ok.mpr ⟨hn, inputElements_of_holds hlen hholds, hrange, hfit⟩) _

/-- Settles O31, one clause for each check, with the checks before it passed. -/
theorem b64eReportsItsFirstFailingCheck : Obligations.B64eReportsItsFirstFailingCheck := by
  intro s
  rw [exec_b64e_eq]
  refine ⟨?inputLength, ?unwritten, ?range, ?outputLength⟩
  case inputLength =>
    intro hn
    apply finish_bind_reported (by decide)
    rw [checkedOctets, require_bind_of_not (Nat.not_le.mpr hn)]
  case unwritten =>
    intro k hn hk hnone hwritten
    apply finish_bind_of_fault
    rw [checkedOctets, require_bind_of hn, inputElements_of_unwritten hk hnone hwritten, error_bind]
  case range =>
    intro vs k hk hn hlen hholds hlarge hleast
    apply finish_bind_reported (by decide)
    rw [checkedOctets, require_bind_of hn, inputElements_of_holds hlen hholds, ok_bind,
      requireInRange_of_least hk hlarge hleast, error_bind]
  case outputLength =>
    intro vs hn hlen hholds hrange hlong
    apply finish_bind_reported (by decide)
    rw [checkedOctets, require_bind_of hn, inputElements_of_holds hlen hholds, ok_bind,
      requireInRange_eq_ok (u := ()).mpr hrange, ok_bind, require_bind_of_not (Nat.not_le.mpr hlong), lengthInfo]

/-- Settles O30: the text that a successful B64E commits, read off its closed form. -/
theorem encodedTextLengthAndPadding : Obligations.EncodedTextLengthAndPadding := by
  intro s t h hok
  obtain ⟨vs, hvs, rfl⟩ := checkedOctets_of_success h hok
  obtain ⟨-, hread, -, hfit⟩ := checkedOctets_eq_ok.mp hvs
  have houtlen : (textCommit s vs).outlen.toNat = textLength vs.length := toNat_ofNat_of_le_odepth hfit
  have hpad : (textCommit s vs).pad.toNat = textPadding vs.length :=
    Nat.mod_eq_of_lt (by unfold textPadding; split_ifs <;> omega)
  have hsum := outputLength_encode_add vs.length
  rw [houtlen, hpad, ← inputElements_length hread]
  refine ⟨?padding, rfl, ?sum, ?padChars⟩
  case padding =>
    unfold textPadding
    split_ifs <;> omega
  case sum =>
    rw [outputLength] at hsum
    omega
  case padChars =>
    intro k hk
    have hk' : k < (textOf vs).length := by rwa [length_textOf]
    have hget : (textCommit s vs).obuf.get k = some (textOf vs)[k] := holds_setAll_zero s.obuf _ k hk'
    rw [hget, Option.some_inj, ← hsum, Nat.add_sub_cancel]
    exact getElem_textOf_eq_padChar_iff hk'

/-! ### Decoding -/

/-- Settles O32: the text passes every check. -/
theorem b64dCommitsTheOctets : Obligations.B64dCommitsTheOctets := by
  intro s sx hn htext hfit
  rw [exec_b64d_eq]
  exact finish_bind_of_ok (checkedSextets_eq_ok.mpr ⟨hn, scanText_of_textHolds htext, hfit⟩) _

/-- Settles O33, one clause for each check, with the checks before it passed. -/
theorem b64dReportsItsFirstFailingCheck : Obligations.B64dReportsItsFirstFailingCheck := by
  intro s
  rw [exec_b64d_eq]
  refine ⟨?inputLength, ?unwritten, ?character, ?outputLength⟩
  case inputLength =>
    intro hn
    apply finish_bind_reported (by decide)
    rw [checkedSextets, require_bind_of_not (Nat.not_le.mpr hn)]
  case unwritten =>
    intro sx hn hlt hsx hholds hnone
    have hscan : scanText s.ibuf 0 s.arg0.toNat = .error (.fault (.unwrittenInput sx.length)) :=
      scanText_of_stop hlt hsx hholds (scanText_unwritten hnone)
    apply finish_bind_of_fault
    rw [checkedSextets, require_bind_of hn, hscan, error_bind]
  case character =>
    intro sx c hn hlt hsx hholds hc hpad hcode
    have hscan : scanText s.ibuf 0 s.arg0.toNat = .error (.raise .invalidCharacter (BitVec.ofNat 32 sx.length)) :=
      scanText_of_stop hlt hsx hholds fun n => by
        rw [scanText_char hc hpad, sextetOf_eq_error.mpr ⟨mapD_eq_none.mpr hcode, rfl⟩, error_bind]
    apply finish_bind_reported (by decide)
    rw [checkedSextets, require_bind_of hn, hscan, error_bind]
  case outputLength =>
    intro sx hn htext hlong
    apply finish_bind_reported (by decide)
    rw [checkedSextets, require_bind_of hn, scanText_of_textHolds htext, ok_bind,
      require_bind_of_not (Nat.not_le.mpr hlong), lengthInfo]

/-- Settles O36: the text holds the sextets of the octets, and their whole octets are those octets. -/
theorem decodingAnEncodingReturnsTheBytes : Obligations.DecodingAnEncodingReturnsTheBytes := by
  intro s vs hn hlen hholds hrange hfit
  refine ⟨_, b64eCommitsTheText s vs hn hlen hholds hrange hfit, rfl, fun u harg0 hidepth hodepth hibuf => ?_⟩
  have houtlen : (BitVec.ofNat 32 (textLength vs.length)).toNat = textLength vs.length := toNat_ofNat_of_le_odepth hfit
  have hwhole := octets_of_outputLength_encode vs.length
  have htext : TextHolds u.ibuf u.arg0.toNat (repacked 8 6 vs) := by
    rw [harg0, houtlen]
    refine textHolds_of_holds_textOf fun k hk => ?_
    rw [hibuf k (by rwa [houtlen, ← length_textOf])]
    exact holds_setAll_zero s.obuf _ k hk
  refine ⟨_, b64dCommitsTheOctets u _ (by rwa [harg0]) htext (by rwa [length_repacked, hwhole]), rfl, ?_, ?_⟩
  · simp only [length_repacked, hwhole, toNat_ofNat_of_le_odepth hodepth]
  · simp only [octetsOf_repacked hrange]
    exact holds_setAll_zero u.obuf vs

/-! ### What the codec depends on -/

/-- Settles O34: up to the padding character the scan reads the same elements, and no commit reads IBUF. -/
theorem b64dIgnoresTextAfterPadding : Obligations.B64dIgnoresTextAfterPadding := by
  intro s m k v hpad hmk
  have hscan : scanText (s.ibuf.set k v) 0 s.arg0.toNat = scanText s.ibuf 0 s.arg0.toNat :=
    scanText_congr_of_padChar (j := m) (by rwa [Nat.zero_add]) (fun i hi => Memory.get_set_other _ _ (by omega)) _
  have hin : checkedSextets { s with ibuf := s.ibuf.set k v } = checkedSextets s := by
    simp only [checkedSextets, hscan]
  rw [exec_b64d_eq, exec_b64d_eq, hin]
  exact finish_bind_update (g := fun t => { t with ibuf := s.ibuf.set k v }) (fun _ => rfl) fun e info _ => by
    unfold errorCommit
    split <;> rfl

/-- The state with other values in the cells of the configuration and of the configured re-packer (10_state.md R20 to R23);
the updated state of O35. -/
def withConfig (c : Bool) (iw ow x : BitVec 5) (a : BitVec 31) (s : State) : State :=
  { s with cfgv := c, inW := iw, outW := ow, idx := x, acc := a }

/-- An error commit that keeps the configuration keeps other values of it too. -/
theorem errorCommit_withConfig {e : ErrorCode} (he : e ≠ .configurationError) (info : Word) (c : Bool)
    (iw ow x : BitVec 5) (a : BitVec 31) (s : State) :
    errorCommit e info (withConfig c iw ow x a s) = withConfig c iw ow x a (errorCommit e info s) := by
  rw [errorCommit_eq_reported he, errorCommit_eq_reported he]
  rfl

/-- Settles O35: no check and no commit of either command reads the configuration, and no error they report drops it. -/
theorem codecIgnoresConfiguration : Obligations.CodecIgnoresConfiguration := by
  intro i s c iw ow x a hi
  have herror : ∀ e info, exec i s = .next (errorCommit e info s) →
      errorCommit e info (withConfig c iw ow x a s) = withConfig c iw ow x a (errorCommit e info s) := fun e info h =>
    errorCommit_withConfig (errorCommit_err e info s ▸ codec_err_ne_configurationError hi h) info c iw ow x a s
  rcases hi with rfl | rfl
  · rw [exec_b64e_eq] at herror
    rw [exec_b64e_eq, exec_b64e_eq]
    exact finish_bind_update (g := withConfig c iw ow x a) (fun _ => rfl)
      fun e info h => herror e info (finish_bind_of_raise h _)
  · rw [exec_b64d_eq] at herror
    rw [exec_b64d_eq, exec_b64d_eq]
    exact finish_bind_update (g := withConfig c iw ow x a) (fun _ => rfl)
      fun e info h => herror e info (finish_bind_of_raise h _)

end Sys2Proof.Safety
end

section
/-! PROOFS. Errors (60_exceptions.md): which codes each command can end in (R150), that a command in error makes exactly the
writes of the error commit (R152), and that a block with no operation left holds its state (R172). -/

namespace Sys2Proof.Safety

open Sys2Proof.Machine

variable {s t : State} {i : Instr}

/-! ### A command in error -/

/-- A command that ends in error reports a code it can raise, and its next state is the error commit of what that state
reports (60_exceptions.md R150, R152). -/
theorem exec_error (h : exec i s = .next t) (herr : t.err ≠ .ok) :
    Raises s i t.err ∧ t = errorCommit t.err t.errinfo s := by
  rcases exec_ends h with ⟨u, _, rfl⟩ | ⟨e, info, hr, rfl⟩
  · exact absurd (successCommit_err u) herr
  · rw [errorCommit_err, errorCommit_errinfo]
    exact ⟨hr, rfl⟩

/-- Settles O15: the codes of `Raises`, without its condition on NOT_CONFIGURED. -/
theorem errorCodesEachCommandCanRaise : Obligations.ErrorCodesEachCommandCanRaise := by
  intro i s t h herr
  obtain ⟨hr, -⟩ := exec_error h herr
  cases i with
  | inv => exact hr.1
  | conv => exact hr.imp_left And.left
  | cfg | mape | mapd | b64e | b64d => exact hr

/-- Settles O11: the error commit is `reportedUnconfigured` for CONFIGURATION_ERROR and `reported` for every other code, and
every index is at or above an OUTLEN of 0. -/
theorem commandsInErrorMakeExactlyTheErrorCommit : Obligations.CommandsInErrorMakeExactlyTheErrorCommit := by
  refine ⟨fun i s t h herr => ?command, fun w d s hdec => ?illegal, fun e info k s => ?output⟩
  case command =>
    obtain ⟨-, hcommit⟩ := exec_error h herr
    refine ⟨fun hne => hcommit.trans (errorCommit_eq_reported hne _ _), fun hcfg => ?_⟩
    rw [hcfg] at hcommit
    exact hcommit.trans (errorCommit_eq_reportedUnconfigured _ _)
  case illegal => exact issueCommand_of_undecodable (fun i hi => by simp [hdec] at hi) s
  case output => exact ⟨hostValue_obuf_beyond (Nat.zero_le _), hostValue_obuf_beyond (Nat.zero_le _)⟩

/-! ### No operation left -/

/-- Settles O5: an empty queue is the waiting case of the step. -/
theorem waitsWithoutInput : Obligations.WaitsWithoutInput := fun _ => step_of_inputs_nil

end Sys2Proof.Safety
end

section
/-! PROOFS. Where a step has no successor (70_reset_and_hazards.md R181, 20_memory.md R50): a fault comes only from reading an
unwritten element in a command that got that far, and a refusal only from a sub-word access. -/

namespace Sys2Proof.Machine

/-! ### The checks of a command do not fault -/

theorem require_ne_fault {p : Prop} [Decidable p] {e : ErrorCode} {info : Word} {f : Fault} :
    require p e info ≠ .error (.fault f) := fun h => nomatch (require_eq_error.mp h).2

theorem charOf_ne_fault {v : Word} {f : Fault} : charOf v ≠ .error (.fault f) := fun h => nomatch (charOf_eq_error.mp h).2

theorem sextetOf_ne_fault {c info : Word} {f : Fault} : sextetOf c info ≠ .error (.fault f) :=
  fun h => nomatch (sextetOf_eq_error.mp h).2

theorem requireInRange_ne_fault {iw : Nat} {vs : List Word} {f : Fault} : requireInRange iw vs ≠ .error (.fault f) := by
  unfold requireInRange
  split <;> simp

/-- Behind a check, a command faults exactly when the check holds and the rest of the command faults. -/
theorem require_bind_eq_fault {α : Type} {p : Prop} [Decidable p] {e : ErrorCode} {info : Word} {g : Unit → Except Stop α}
    {f : Fault} : (require p e info >>= g) = .error (.fault f) ↔ p ∧ g () = .error (.fault f) := by
  by_cases hp : p
  · rw [require_bind_of hp, and_iff_right hp]
  · rw [require_bind_of_not hp]
    simp [hp]

/-- A part of a command followed by what cannot fault: only the part itself faults. -/
theorem bind_eq_fault_of_ne {α β : Type} {x : Except Stop α} {g : α → Except Stop β} {f : Fault}
    (hg : ∀ a, g a ≠ .error (.fault f)) : (x >>= g) = .error (.fault f) ↔ x = .error (.fault f) := by
  simp [bind_eq_error, hg]

/-- A command that checks and then commits faults exactly when its checks do. -/
theorem finish_bind_eq_fault {α : Type} {s : State} {x : Except Stop α} {g : α → State} {f : Fault} :
    finish s (x >>= fun a => .ok (g a)) = .fault f ↔ x = .error (.fault f) :=
  finish_eq_fault.trans (bind_eq_fault_of_ne fun _ h => nomatch h)

end Sys2Proof.Machine

namespace Sys2Proof.Safety

open Sys2Proof.Machine

variable {s : State} {f : Fault}

/-! ### The checked inputs that fault -/

/-- CONV reads its input only when it is configured and the input fits IBUF (60_exceptions.md R160). -/
theorem checkedInput_eq_fault :
    checkedInput s = .error (.fault f) ↔
      s.cfgv = true ∧ s.arg0.toNat ≤ s.idepth.toNat ∧ inputElements s s.arg0.toNat = .error (.fault f) := by
  rw [checkedInput, require_bind_eq_fault, require_bind_eq_fault, bind_eq_fault_of_ne]
  intro vs
  simp [bind_eq_error, requireInRange_ne_fault, require_ne_fault, pure, Except.pure]

/-- B64E reads its octets only when they fit IBUF (60_exceptions.md R160). -/
theorem checkedOctets_eq_fault :
    checkedOctets s = .error (.fault f) ↔
      s.arg0.toNat ≤ s.idepth.toNat ∧ inputElements s s.arg0.toNat = .error (.fault f) := by
  rw [checkedOctets, require_bind_eq_fault, bind_eq_fault_of_ne]
  intro vs
  simp [bind_eq_error, requireInRange_ne_fault, require_ne_fault, pure, Except.pure]

/-- B64D scans its text only when the text fits IBUF (60_exceptions.md R160). -/
theorem checkedSextets_eq_fault :
    checkedSextets s = .error (.fault f) ↔
      s.arg0.toNat ≤ s.idepth.toNat ∧ scanText s.ibuf 0 s.arg0.toNat = .error (.fault f) := by
  rw [checkedSextets, require_bind_eq_fault, bind_eq_fault_of_ne]
  intro sx
  simp [bind_eq_error, require_ne_fault, pure, Except.pure]

/-! ### Commands -/

/-- Element `k` is the first unwritten one of an input that fits IBUF. -/
structure FirstUnwritten (s : State) (k : Nat) : Prop where
  below : k < s.arg0.toNat
  fits : s.arg0.toNat ≤ s.idepth.toNat
  unwritten : s.ibuf.get k = none
  written : ∀ j, j < k → (s.ibuf.get j).isSome

/-- What lets a command read element `k`, beside an input that fits IBUF: CONV is configured (41_transcode.md R96), and the
scan of B64D has met neither `=` nor an unmappable character (43_codec.md R134, R135; assumption 6). The commands CFG, INV,
MAPE and MAPD read no element. -/
def Reaches (s : State) (k : Nat) : Instr → Prop
  | .conv => s.cfgv = true
  | .b64e => True
  | .b64d => ∀ j, j < k → ∃ c, s.ibuf.get j = some c ∧ c ≠ padChar ∧ (mapD c).isSome
  | .cfg | .inv | .mape | .mapd => False

/-- The fault of reading an input that fits IBUF names its first unwritten element. -/
theorem firstUnwritten_of_inputElements (hfits : s.arg0.toNat ≤ s.idepth.toNat)
    (h : inputElements s s.arg0.toNat = .error (.fault f)) : ∃ k, f = .unwrittenInput k ∧ FirstUnwritten s k := by
  obtain ⟨k, hk, hf, hnone, hwritten⟩ := readElements_eq_error.mp h
  simp only [Nat.zero_add] at hf hnone hwritten
  cases hf
  exact ⟨k, rfl, hk, hfits, hnone, hwritten⟩

/-- The fault of scanning a text that fits IBUF names its first unwritten element, and the scan has reached it. -/
theorem firstUnwritten_of_scanText (hfits : s.arg0.toNat ≤ s.idepth.toNat)
    (h : scanText s.ibuf 0 s.arg0.toNat = .error (.fault f)) :
    ∃ k, f = .unwrittenInput k ∧ Reaches s k .b64d ∧ FirstUnwritten s k := by
  obtain ⟨k, hk, hf, hnone, hchars⟩ := scanText_eq_fault h
  simp only [Nat.zero_add] at hf hnone hchars
  refine ⟨k, hf, hchars, hk, hfits, hnone, fun j hj => ?_⟩
  obtain ⟨c, hc, -⟩ := hchars j hj
  rw [hc, Option.isSome_some]

/-- Every fault of a command is that of the first unwritten element of its input, and the command reads that element
(70_reset_and_hazards.md R181). -/
theorem exec_fault {i : Instr} (h : exec i s = .fault f) :
    ∃ k, f = .unwrittenInput k ∧ Reaches s k i ∧ FirstUnwritten s k := by
  cases i with
  | cfg => exact absurd (finish_bind_eq_fault.mp h) require_ne_fault
  | inv => exact absurd (finish_bind_eq_fault.mp h) require_ne_fault
  | mape => exact absurd (finish_bind_eq_fault.mp h) charOf_ne_fault
  | mapd => exact absurd (finish_bind_eq_fault.mp h) sextetOf_ne_fault
  | conv =>
    rw [exec_conv_eq] at h
    obtain ⟨hcfgv, hfits, hread⟩ := checkedInput_eq_fault.mp (finish_bind_eq_fault.mp h)
    obtain ⟨k, hf, hfirst⟩ := firstUnwritten_of_inputElements hfits hread
    exact ⟨k, hf, hcfgv, hfirst⟩
  | b64e =>
    rw [exec_b64e_eq] at h
    obtain ⟨hfits, hread⟩ := checkedOctets_eq_fault.mp (finish_bind_eq_fault.mp h)
    obtain ⟨k, hf, hfirst⟩ := firstUnwritten_of_inputElements hfits hread
    exact ⟨k, hf, trivial, hfirst⟩
  | b64d =>
    rw [exec_b64d_eq] at h
    obtain ⟨hfits, hscan⟩ := checkedSextets_eq_fault.mp (finish_bind_eq_fault.mp h)
    exact firstUnwritten_of_scanText hfits hscan

/-- No command is refused: each is a `finish`. -/
theorem exec_ne_refused (i : Instr) (s : State) (r : Refusal) : exec i s ≠ .refused r := by
  cases i <;> exact finish_ne_refused

/-! ### Operations and steps -/

/-- A command word faults only as the command it selects: an illegal word is an error of the block (30_encoding.md R64). -/
theorem issueCommand_fault {w : Word} (h : issueCommand w s = .fault f) : ∃ i, w = encode i ∧ exec i s = .fault f := by
  unfold issueCommand at h
  split at h
  · rename_i i hdec
    exact ⟨i, eq_encode_iff.mpr (decode_eq_ok.mp hdec), h⟩
  · cases h

theorem issueCommand_ne_refused (w : Word) (s : State) (r : Refusal) : issueCommand w s ≠ .refused r := by
  unfold issueCommand
  split
  · exact exec_ne_refused _ s r
  · exact nofun

/-- A host write has a successor, unless it is a write to CMD. -/
theorem hostWrite_eq_next_or_command (space : Space) (i v : Word) (s : State) :
    (∃ t, hostWrite space i v s = .next t) ∨
    space = .reg ∧ i = regIndex .cmd ∧ hostWrite space i v s = issueCommand v s := by
  rcases hostWrite_cases space i v s with ⟨hreg, hcmd, hw⟩ | ⟨-, -, hw⟩ | ⟨-, -, hw⟩ | ⟨-, -, hw⟩ | hw
  · exact .inr ⟨hreg, regAt_eq_some.mp hcmd, hw⟩
  all_goals exact .inl ⟨_, hw⟩

/-- Only a write to CMD can fault. -/
theorem perform_fault {x : Input} (h : perform x s = .fault f) :
    ∃ w, x = .write .reg (regIndex .cmd) w ∧ issueCommand w s = .fault f := by
  cases x with
  | write space i v =>
    rcases hostWrite_eq_next_or_command space i v s with ⟨t, hw⟩ | ⟨rfl, rfl, hw⟩
    · exact nomatch hw.symm.trans h
    · exact ⟨v, rfl, hw.symm.trans h⟩
  | read _ _ => cases h
  | subwordWrite _ _ _ _ => cases h
  | subwordRead _ _ _ => cases h
  | reset => cases h

/-- Only a sub-word access is refused (20_memory.md R50). -/
theorem perform_refused {x : Input} {r : Refusal} (h : perform x s = .refused r) : r = .subwordAccess ∧ x.wf = false := by
  cases x with
  | write space i v =>
    rcases hostWrite_eq_next_or_command space i v s with ⟨t, hw⟩ | ⟨-, -, hw⟩
    · exact nomatch hw.symm.trans h
    · exact absurd (hw.symm.trans h) (issueCommand_ne_refused v s r)
  | read _ _ => cases h
  | subwordWrite _ _ _ _ =>
    cases h
    exact ⟨rfl, rfl⟩
  | subwordRead _ _ _ =>
    cases h
    exact ⟨rfl, rfl⟩
  | reset => cases h

/-- A step that answers no next state performs the oldest operation of the queue. -/
theorem step_stops {s : State} (h : ∀ t, step s ≠ .next t) :
    ∃ x rest, s.inputs = x :: rest ∧ step s = perform x (s.withInputs rest) := by
  cases hi : s.inputs with
  | nil => exact absurd (step_of_inputs_nil hi) (h s)
  | cons x rest => exact ⟨x, rest, rfl, step_of_inputs_cons hi⟩

/-- The words whose commands can read an unwritten element (30_encoding.md R62). -/
theorem Reaches.word {k : Nat} {i : Instr} (h : Reaches s k i) :
    encode i = 3#32 ∧ s.cfgv = true ∨ encode i = 6#32 ∨
    encode i = 7#32 ∧ ∀ j, j < k → ∃ c, s.ibuf.get j = some c ∧ c ≠ 0x3D#32 ∧ (mapD c).isSome := by
  cases i with
  | conv => exact .inl ⟨rfl, h⟩
  | b64e => exact .inr (.inl rfl)
  | b64d => exact .inr (.inr ⟨rfl, h⟩)
  | cfg | inv | mape | mapd => exact absurd h id

/-- Settles O6: a step stops in the operation it performs, which is a command that reads an unwritten element or a sub-word
access. -/
theorem stepsStopOnlyWhereTheSpecSays : Obligations.StepsStopOnlyWhereTheSpecSays := by
  refine ⟨fun s f h => ?fault, fun s r h => ?refusal⟩
  case fault =>
    obtain ⟨x, rest, hinputs, hstep⟩ := step_stops (s := s) (by simp [h])
    obtain ⟨w, rfl, hissue⟩ := perform_fault (hstep.symm.trans h)
    obtain ⟨i, rfl, hexec⟩ := issueCommand_fault hissue
    obtain ⟨k, hf, hreach, hfirst⟩ := exec_fault hexec
    exact ⟨encode i, rest, k, hinputs, hreach.word, hf, hfirst.below, hfirst.fits, hfirst.unwritten, hfirst.written⟩
  case refusal =>
    obtain ⟨x, rest, hinputs, hstep⟩ := step_stops (s := s) (by simp [h])
    obtain ⟨hr, hwf⟩ := perform_refused (hstep.symm.trans h)
    exact ⟨hr, x, rest, hinputs, hwf⟩

end Sys2Proof.Safety
end
